-- ==== Sys2Proof/Word.lean ====
section
/-! DEFINITION. The word types of the block (spec/00_scope.md rules R7 and R8). -/

namespace Sys2Proof

/-- A byte (R8). -/
abbrev Byte := BitVec 8

/-- A 32-bit bus word; the width of every register (00_scope.md R6 "bus data width", 10_state.md R22). -/
abbrev Word := BitVec 32

/-- A 64-bit quantity: a moving factor, a timestamp, a sample of NOW_IN (00_scope.md R6). -/
abbrev DWord := BitVec 64

end Sys2Proof
end

