-- ==== Sys2Proof/Config.lean ====
section
/-! DEFINITION. What an implementation fixes (spec/00_scope.md R6) and the one value the spec leaves open. -/

namespace Sys2Proof

/-- The implementation parameters of 00_scope.md R6: BASE_ADDR, MAX_DIGITS and MAX_KEY_BYTES.
They are plain data carried in State, so that a claim about every state is a claim about every
value of them (93_implementation_defined.md section 3). -/
structure Params where
  /-- BASE_ADDR, the address of the register window on the host bus (20_memory.md R60). -/
  baseAddr : Nat
  /-- MAX_DIGITS, the largest password length and the capacity of CAND and RESULT. -/
  maxDigits : Nat
  /-- MAX_KEY_BYTES, the capacity of KEY. -/
  maxKeyBytes : Nat
  deriving DecidableEq, Repr

namespace Config

/-- The size of the register window in bytes (20_memory.md R60). -/
def windowBytes : Nat := 0x1000

/-- The parameters of the machine that `State.reset` describes: the defaults of 00_scope.md R6 for
MAX_DIGITS and MAX_KEY_BYTES. BASE_ADDR is OPEN there; 0 is a DESIGN CHOICE (notes/assumptions/1.md). -/
def defaultParams : Params := { baseAddr := 0, maxDigits := 10, maxKeyBytes := 128 }

/-- A free value: the time-step counter of timestamp `t` for an interval of zero, which the source
calls undefined (93_implementation_defined.md U1). No reachable state has INTERVAL = 0 (10_state.md R50);
nothing constrains this value (notes/assumptions/2.md). -/
opaque counterOfZeroInterval : DWord → DWord

end Config

end Sys2Proof
end

