-- ==== Sys2Proof/Syntax.lean ====
section
/-! DEFINITION. The eleven commands of spec/30_encoding.md R91: one constructor per row of
spec/opcode_table.json. A command word has no register and no immediate fields (R90), so no
constructor has an argument. -/

namespace Sys2Proof

/-- A legal command (30_encoding.md R91). -/
inductive Instr where
  /-- SET_SECRET (44_configuration.md R241). -/
  | setSecret
  /-- SET_ALGORITHM (R242). -/
  | setAlgorithm
  /-- SET_PASSWORD_LENGTH (R243). -/
  | setPasswordLength
  /-- SET_WINDOW_SIZE (R244). -/
  | setWindowSize
  /-- SET_INTERVAL (R245). -/
  | setInterval
  /-- HOTP_GENERATE (40_hotp_core.md R119). -/
  | hotpGenerate
  /-- HOTP_VERIFY (42_window_verifier.md R186). -/
  | hotpVerify
  /-- TOTP_GENERATE (43_totp_core.md R213). -/
  | totpGenerate
  /-- TOTP_VERIFY (R215). -/
  | totpVerify
  /-- TOTP_GENERATE_NOW (R214). -/
  | totpGenerateNow
  /-- TOTP_VERIFY_NOW (R216). -/
  | totpVerifyNow
  deriving DecidableEq, Repr

end Sys2Proof
end

