-- ==== Sys2Proof/WellFormed.lean ====
section
/-! DEFINITION. Well-formedness of what a claim quantifies over: the implementation parameters
(spec/00_scope.md R6) and the instructions (spec/30_encoding.md R90). -/

namespace Sys2Proof

/-- BASE_ADDR is aligned to 4 KiB (20_memory.md R60). -/
def Params.baseAligned (p : Params) : Bool := p.baseAddr % Config.windowBytes == 0

/-- MAX_DIGITS is in 8 to 64 (00_scope.md R6). -/
def Params.digitsLegal (p : Params) : Bool := decide (8 ≤ p.maxDigits) && decide (p.maxDigits ≤ 64)

/-- MAX_KEY_BYTES is in 64 to 256 (00_scope.md R6). -/
def Params.keyBytesLegal (p : Params) : Bool := decide (64 ≤ p.maxKeyBytes) && decide (p.maxKeyBytes ≤ 256)

/-- The parameter values a model accepts: "The model must refuse a parameter value outside its legal
range. It must not clamp one" (00_scope.md R6). -/
def Params.wellFormed (p : Params) : Bool := p.baseAligned && p.digitsLegal && p.keyBytesLegal

/-- Every command is well formed: "The command word has no register fields and no immediate fields"
(30_encoding.md R90), so there is nothing to check beyond the constructor. -/
def Instr.wellFormed : Instr → Bool
  | .setSecret | .setAlgorithm | .setPasswordLength | .setWindowSize | .setInterval => true
  | .hotpGenerate | .hotpVerify => true
  | .totpGenerate | .totpVerify | .totpGenerateNow | .totpVerifyNow => true

end Sys2Proof
end

