-- ==== Sys2Proof/Decode.lean ====
section
/-! DEFINITION. Decoding and encoding of the command word (spec/30_encoding.md R90 to R93, R97).
Decoding is total on all 2^32 words: eleven are commands and every other one is rejected by name. -/

namespace Sys2Proof

/-- The OPCODE field, bits [7:0] of a command word (30_encoding.md R90). -/
def opcodeField (w : Word) : Byte := w.extractLsb' 0 8

/-- The RSV field, bits [31:8] of a command word (30_encoding.md R90). -/
def rsvField (w : Word) : BitVec 24 := w.extractLsb' 8 24

/-- Why a command word is illegal. Either way it completes with IllegalCommand (R92, R93). -/
inductive Illegal where
  /-- RSV ≠ 0, whatever the OPCODE (30_encoding.md R92). -/
  | reservedBits
  /-- An OPCODE that R91 does not list, the all-zero word among them (30_encoding.md R93). -/
  | unlistedOpcode
  deriving DecidableEq, Repr

/-- The opcode map (30_encoding.md R91), read on the whole 8-bit OPCODE. -/
def decodeOpcode (op : Byte) : Except Illegal Instr :=
  match op.toNat with
  | 0x01 => .ok .setSecret
  | 0x02 => .ok .setAlgorithm
  | 0x03 => .ok .setPasswordLength
  | 0x04 => .ok .setWindowSize
  | 0x05 => .ok .setInterval
  | 0x10 => .ok .hotpGenerate
  | 0x11 => .ok .hotpVerify
  | 0x20 => .ok .totpGenerate
  | 0x21 => .ok .totpVerify
  | 0x22 => .ok .totpGenerateNow
  | 0x23 => .ok .totpVerifyNow
  | _ => .error .unlistedOpcode

/-- The decoder: the reserved bits first, then the opcode map (30_encoding.md R92, R93). -/
def decode (w : Word) : Except Illegal Instr :=
  if rsvField w = 0 then decodeOpcode (opcodeField w) else .error .reservedBits

/-- The OPCODE of a command (30_encoding.md R91). -/
def Instr.opcode : Instr → Byte
  | .setSecret => 0x01
  | .setAlgorithm => 0x02
  | .setPasswordLength => 0x03
  | .setWindowSize => 0x04
  | .setInterval => 0x05
  | .hotpGenerate => 0x10
  | .hotpVerify => 0x11
  | .totpGenerate => 0x20
  | .totpVerify => 0x21
  | .totpGenerateNow => 0x22
  | .totpVerifyNow => 0x23

/-- The encoder: RSV = 0 above the OPCODE (format CMD32, 30_encoding.md R90). -/
def encode (i : Instr) : Word := (0 : BitVec 24) ++ i.opcode

/-- The instruction the decoder reads from the word `w` of an opcode-table row of `nbits` bits.
Every command is exactly one 32-bit word (30_encoding.md R97), and bit 0 of the table is bit 0 of that word. -/
def decodeTableWord (nbits w : Nat) : Option Instr :=
  if w < 2 ^ 32 ∧ w < 2 ^ nbits then (decode (BitVec.ofNat 32 w)).toOption else none

end Sys2Proof
end

