-- ==== Sys2Proof/Machine/State.lean ====
section
/-! DEFINITION. The state of the block (spec/10_state.md), plain data, and the state after reset
(spec/70_reset_and_hazards.md R300). Two fields at the end are the model's own: the moves that the
agents outside the engine still have to make, and the last reply on the host bus. -/

namespace Sys2Proof.Machine

/-- The engine phase (10_state.md R45). -/
inductive Phase where
  | idle
  | busy
  deriving DecidableEq, Repr

/-- The configured hash (10_state.md R23): "No other value is ever held". Its code is `Alg.code`. -/
inductive Alg where
  | sha1
  | sha256
  | sha512
  deriving DecidableEq, Repr

/-- The stored STATUS fields (10_state.md R36 to R41). STATUS.BUSY is PHASE itself (R35) and the
reserved bits read as 0 (R42), so neither is stored; `State.statusWord` is the whole register. -/
structure Status where
  /-- DONE, bit 1 (R36). -/
  done : Bool
  /-- ERR, bit 2 (R37). -/
  err : Bool
  /-- MATCH, bit 3 (R38). -/
  matched : Bool
  /-- DROPPED, bit 4 (R39). -/
  dropped : Bool
  /-- ERRCODE, bits [11:8] (R40). -/
  errcode : BitVec 4
  /-- LASTOP, bits [23:16] (R41). -/
  lastop : Byte
  deriving DecidableEq, Repr

/-- The bytes of the KEY, CAND and RESULT buffers, keyed by their offset in the window (20_memory.md R61):
address and byte, addresses strictly rising, no entry equal to 0x00, which is what every buffer byte
holds after reset (70_reset_and_hazards.md R300) and what an unlisted address reads as. -/
abbrev Memory := List Host.Cell

/-- What a host access does. -/
inductive AccessKind where
  | read
  | write (v : Word)
  deriving DecidableEq, Repr

/-- One host bus access: the address on the bus, its width in bytes, and what it does (20_memory.md R62). -/
structure Access where
  addr : Nat
  width : Nat
  kind : AccessKind
  deriving DecidableEq, Repr

/-- One move of an agent (10_state.md R20, 20_memory.md R70). The list of them in State says which agent
moves next, so that every interleaving of host accesses and completions is some list. -/
inductive Input where
  /-- The host performs an access; NOW_IN carries `now` while it does (10_state.md R48). -/
  | access (a : Access) (now : DWord)
  /-- The engine takes its completion step here, if PHASE = BUSY (30_encoding.md R99). -/
  | engine
  /-- The reset input is asserted (70_reset_and_hazards.md R300). -/
  | reset
  deriving DecidableEq, Repr

/-- What the host bus carried back for the last access: the host's view, not state of the block. -/
inductive Reply where
  | none
  | ack
  | data (v : Word)
  deriving DecidableEq, Repr

/-- The state. -/
@[ext]
structure State where
  /-- BASE_ADDR, MAX_DIGITS and MAX_KEY_BYTES (00_scope.md R6); PARAMS reads the last two (10_state.md R43). -/
  params : Params
  /-- ALG (R23). -/
  alg : Alg
  /-- DIGITS (R24). -/
  digits : Word
  /-- WINDOW (R25). -/
  window : Word
  /-- INTERVAL (R26). -/
  interval : Word
  /-- KEY_LEN (R28). -/
  keyLen : Word
  /-- ARG_LO (R29). -/
  argLo : Word
  /-- ARG_HI (R29). -/
  argHi : Word
  /-- CAND_LEN (R31). -/
  candLen : Word
  /-- CODE (R32). -/
  code : Word
  /-- LAST_CTR_LO (R34). -/
  lastCtrLo : Word
  /-- LAST_CTR_HI (R34). -/
  lastCtrHi : Word
  /-- The KEY (R27), CAND (R30) and RESULT (R33) buffers. -/
  mem : Memory
  /-- STATUS (R35 to R42). -/
  status : Status
  /-- PHASE (R45). -/
  phase : Phase
  /-- PEND (R46). -/
  pend : Word
  /-- NOW_LATCH (R47). -/
  nowLatch : DWord
  /-- The MODEL's own: the moves still to come, in order (notes/assumptions/3.md). -/
  inputs : List Input
  /-- The MODEL's own: the reply to the host's last access (notes/assumptions/5.md). -/
  reply : Reply
  deriving DecidableEq, Repr

/-- Why the machine stops. -/
inductive Fault where
  /-- A host access that is not 32 bits wide or whose offset is not a multiple of 4: the block answers with a
  bus error and changes no state; "A model treats such an access as a fault of the host's program"
  (20_memory.md R62, 60_exceptions.md R279). Raised by `performAccess`. Safe. -/
  | busError
  /-- A host access at an address outside the 4 KiB window at BASE_ADDR: it does not reach this block
  (20_memory.md R60, notes/assumptions/6.md). Raised by `performAccess`. Safe. -/
  | outsideWindow
  deriving DecidableEq, Repr

/-- Why the model gives no meaning. -/
inductive Refusal where
  /-- An instruction without a meaning yet. Raised by no arm of `exec` now. Safe. -/
  | notModelled (mnemonic : String)
  /-- A parameter outside its legal range: "The model must refuse a parameter value outside its legal
  range" (00_scope.md R6). Raised by `step`. Safe. -/
  | parameterOutOfRange
  deriving DecidableEq, Repr

/-- STATUS after reset: 0x00000000 (70_reset_and_hazards.md R300). -/
def Status.reset : Status :=
  { done := false, err := false, matched := false, dropped := false, errcode := 0, lastop := 0 }

/-- The state after reset of a block with parameters `p`, every field as in 70_reset_and_hazards.md R300. -/
def State.resetWith (p : Params) : State where
  params := p
  alg := .sha1
  digits := 6
  window := 1
  interval := 30
  keyLen := 0
  argLo := 0
  argHi := 0
  candLen := 0
  code := 0
  lastCtrLo := 0
  lastCtrHi := 0
  mem := []
  status := Status.reset
  phase := .idle
  pend := 0
  nowLatch := 0
  inputs := []
  reply := .none

/-- The machine right after reset, with the default parameters of 00_scope.md R6. -/
def State.reset : State := State.resetWith Config.defaultParams

end Sys2Proof.Machine
end

