-- ==== Sys2Proof/Machine/Flags.lean ====
section
/-! DEFINITION. The STATUS fields (spec/10_state.md R35 to R42) and the error codes (spec/60_exceptions.md
R271). The block has no other flags (10_state.md R51). -/

namespace Sys2Proof.Machine

/-- The errors a command can raise (60_exceptions.md R271). -/
inductive ErrorKind where
  | invalidPasswordLength
  | invalidWindowSize
  | invalidInterval
  | unsupportedAlgorithm
  | invalidSecretLength
  | illegalCommand
  deriving DecidableEq, Repr

/-- The code of an error in STATUS.ERRCODE (60_exceptions.md R271). -/
def ErrorKind.code : ErrorKind → BitVec 4
  | .invalidPasswordLength => 1
  | .invalidWindowSize => 2
  | .invalidInterval => 3
  | .unsupportedAlgorithm => 4
  | .invalidSecretLength => 5
  | .illegalCommand => 6

/-- STATUS as acceptance of a command word with the given bits [7:0] leaves it (30_encoding.md R98). MATCH is cleared as
R98 and 10_state.md R38 say (70_reset_and_hazards.md R307 disagrees; which one is followed
is DEDUCED: notes/assumptions/17.md). -/
def Status.accepted (op : Byte) : Status :=
  { done := false, err := false, matched := false, dropped := false, errcode := 0, lastop := op }

/-- STATUS.DONE <- 1, on every completion (30_encoding.md R99). -/
def Status.completed (st : Status) : Status := { st with done := true }

/-- `raise Error(code)`: ERR <- 1, ERRCODE <- code, MATCH <- 0 (60_exceptions.md R282). -/
def Status.raised (e : ErrorKind) (st : Status) : Status :=
  { st with err := true, errcode := e.code, matched := false }

/-- STATUS.MATCH <- the boolean of a verify (10_state.md R38). -/
def Status.withMatch (m : Bool) (st : Status) : Status := { st with matched := m }

/-- STATUS.DROPPED <- 1 (10_state.md R39). -/
def Status.withDropped (st : Status) : Status := { st with dropped := true }

/-- STATUS.BUSY equals 1 exactly when PHASE = BUSY (10_state.md R35). -/
def State.busy (s : State) : Bool := s.phase == .busy

/-- The STATUS register as the host reads it: the layout of 10_state.md section 7, reserved bits 0 (R42). -/
def State.statusWord (s : State) : Word :=
  (0 : BitVec 8) ++ s.status.lastop ++ (0 : BitVec 4) ++ s.status.errcode ++ (0 : BitVec 3) ++
    BitVec.ofBool s.status.dropped ++ BitVec.ofBool s.status.matched ++ BitVec.ofBool s.status.err ++
    BitVec.ofBool s.status.done ++ BitVec.ofBool s.busy

end Sys2Proof.Machine
end

