-- ==== Sys2Proof/Machine/Ops.lean ====
section
/-! DEFINITION. The named operations over memory and registers, and the life of a command: acceptance
(spec/30_encoding.md R98), completion (R99) and raising an error (spec/60_exceptions.md R282). -/

namespace Sys2Proof.Machine

/-- What a buffer byte that nothing has written reads as: 0x00, its reset value (70_reset_and_hazards.md R300). -/
def Memory.unlisted : Byte := 0

/-- The byte at a window offset. -/
def Memory.read : Memory → Nat → Byte
  | [], _ => Memory.unlisted
  | (k, v) :: m, a => if k = a then v else Memory.read m a

/-- Store a byte, keeping the canonical form. -/
def Memory.write : Memory → Nat → Byte → Memory
  | [], a, b => if b = Memory.unlisted then [] else [(a, b)]
  | (k, v) :: m, a, b =>
    if a < k then (if b = Memory.unlisted then (k, v) :: m else (a, b) :: (k, v) :: m)
    else if a = k then (if b = Memory.unlisted then m else (a, b) :: m)
    else (k, v) :: Memory.write m a b

/-- Store consecutive bytes from address `a` on. -/
def Memory.writeBytes : Memory → Nat → List Byte → Memory
  | m, _, [] => m
  | m, a, b :: bs => Memory.writeBytes (Memory.write m a b) (a + 1) bs

/-- The canonical form: addresses strictly rising, and no entry equal to what an unlisted address reads as. -/
abbrev Memory.wf (m : Memory) : Prop :=
  m.Pairwise (fun x y => x.1 < y.1) ∧ ∀ c ∈ m, c.2 ≠ Memory.unlisted

/-- The byte buffers (10_state.md R27, R30, R33). -/
inductive Buffer where
  | key
  | cand
  | result
  deriving DecidableEq, Repr

/-- The offset of a buffer's window (20_memory.md R61). -/
def Buffer.base : Buffer → Nat
  | .key => 0x100
  | .cand => 0x200
  | .result => 0x240

/-- The size of a buffer's window in bytes (20_memory.md R61). -/
def Buffer.size : Buffer → Nat
  | .key => 0x100
  | .cand => 0x40
  | .result => 0x40

/-- The capacity of a buffer (10_state.md R27, R30, R33). -/
def Buffer.cap (p : Params) : Buffer → Nat
  | .key => p.maxKeyBytes
  | .cand => p.maxDigits
  | .result => p.maxDigits

/-- Byte `i` of a buffer; an index beyond the capacity reads as 0 (20_memory.md R67). -/
def State.bufByte (s : State) (b : Buffer) (i : Nat) : Byte :=
  if i < b.cap s.params then s.mem.read (b.base + i) else 0

/-- Write byte `i` of a buffer; an index beyond the capacity is not storage (20_memory.md R67). -/
def State.setBufByte (b : Buffer) (i : Nat) (v : Byte) (s : State) : State :=
  { s with mem := if i < b.cap s.params then s.mem.write (b.base + i) v else s.mem }

/-- ALG's numeric code (10_state.md R23). -/
def Alg.code : Alg → Word
  | .sha1 => 0
  | .sha256 => 1
  | .sha512 => 2

/-- The algorithm of a code, if it is one of the three (44_configuration.md R242). -/
def Alg.ofCode (a : Word) : Option Alg :=
  if a = 0 then some .sha1 else if a = 1 then some .sha256 else if a = 2 then some .sha512 else none

/-- LAST_CTR = {LAST_CTR_HI, LAST_CTR_LO} (10_state.md R34). -/
def State.lastCtr (s : State) : DWord := s.lastCtrHi ++ s.lastCtrLo

/-- LAST_CTR <- f (10_state.md R34). -/
def State.setLastCtr (f : DWord) (s : State) : State :=
  { s with lastCtrLo := f.extractLsb' 0 32, lastCtrHi := f.extractLsb' 32 32 }

/-- CODE <- c, and RESULT <- the string `r` followed by 0x00 up to MAX_DIGITS (10_state.md R32, R33;
40_hotp_core.md R119). -/
def State.setResult (c : Nat) (r : List Byte) (s : State) : State :=
  { s with
    code := BitVec.ofNat 32 c
    mem := s.mem.writeBytes Buffer.result.base ((List.range s.params.maxDigits).map fun k => r.getD k 0) }

/-- STATUS.MATCH <- m (10_state.md R38). -/
def State.setMatch (m : Bool) (s : State) : State := { s with status := s.status.withMatch m }

/-- The moves still to come are `l`. -/
def State.withInputs (l : List Input) (s : State) : State := { s with inputs := l }

/-- The host bus carries the reply `r` back. -/
def State.withReply (r : Reply) (s : State) : State := { s with reply := r }

/-- A dropped write: STATUS.DROPPED <- 1, nothing else (20_memory.md R66). -/
def State.drop (s : State) : State := { s with status := s.status.withDropped }

/-- Acceptance of the command word `w` while NOW_IN carries `now` (30_encoding.md R98). NOW_LATCH is
written for the two `_NOW` words alone (43_totp_core.md R212). -/
def State.accept (w : Word) (now : DWord) (s : State) : State :=
  { s with
    pend := w
    phase := .busy
    status := Status.accepted (opcodeField w)
    nowLatch := if w = 0x00000022 ∨ w = 0x00000023 then now else s.nowLatch }

/-- The end of every completion: BUSY <- 0, DONE <- 1, PHASE <- IDLE (30_encoding.md R99). -/
def State.finish (s : State) : State := { s with status := s.status.completed, phase := .idle }

/-- Raising an error, the block's counterpart of trap entry (60_exceptions.md R282): STATUS records it, the
completion ends, and nothing else is written. There is no return from it: the next acceptance clears
STATUS (R283). -/
def State.raiseError (e : ErrorKind) (s : State) : State :=
  ({ s with status := s.status.raised e }).finish

/-- Reset from any state: every piece of the block's state takes its reset value and the parameters stay
(70_reset_and_hazards.md R300, R301). The moves still to come are the other agents', so they stay. -/
def State.resetBlock (s : State) : State := (State.resetWith s.params).withInputs s.inputs

end Sys2Proof.Machine
end

