-- ==== Sys2Proof/Machine/Operands.lean ====
section
/-! DEFINITION. The operands of the commands (spec/30_encoding.md R91, R94 to R96): every one comes from a
register or a buffer, and none is scaled, shifted or extended beyond R94 and R95. -/

namespace Sys2Proof.Machine

/-- `s32(v)`: a word read as a two's-complement integer (00_scope.md R7, 30_encoding.md R95). -/
def s32 (v : Word) : Int := if v.toNat < 2 ^ 31 then (v.toNat : Int) else (v.toNat : Int) - 2 ^ 32

/-- ARG64 = {ARG_HI, ARG_LO} (30_encoding.md R94). -/
def State.arg64 (s : State) : DWord := s.argHi ++ s.argLo

/-- The unsigned setter operand (30_encoding.md R95: SET_SECRET, SET_ALGORITHM). -/
def State.argUnsigned (s : State) : Nat := s.argLo.toNat

/-- The signed setter operand (30_encoding.md R95: SET_PASSWORD_LENGTH, SET_WINDOW_SIZE, SET_INTERVAL). -/
def State.argSigned (s : State) : Int := s32 s.argLo

/-- The secret in effect, KEY[0..KEY_LEN) (10_state.md R27). -/
def State.secret (s : State) : List Byte := (List.range s.keyLen.toNat).map fun i => s.bufByte .key i

/-- The candidate of a verify: its length CAND_LEN and the CAND buffer (42_window_verifier.md R180). -/
structure Candidate where
  len : Nat
  bytes : List Byte
  deriving DecidableEq, Repr

/-- The candidate that CAND_LEN and CAND hold (42_window_verifier.md R180). -/
def State.candidate (s : State) : Candidate where
  len := s.candLen.toNat
  bytes := (List.range s.params.maxDigits).map fun k => s.bufByte .cand k

/-- Byte `j` of a bus word: bits [8j+7 : 8j] (20_memory.md R63). -/
def byteOfWord (v : Word) (j : Nat) : Byte := v.extractLsb' (8 * j) 8

/-- The bus word of four bytes, byte `j` at bits [8j+7 : 8j] (20_memory.md R63, R65). -/
def wordOfBytes (f : Nat → Byte) : Word := f 3 ++ f 2 ++ f 1 ++ f 0

end Sys2Proof.Machine
end

