-- ==== Sys2Proof/Machine/Bytes.lean ====
section
/-! DEFINITION. The datapath's big-endian byte order (spec/20_memory.md R64, spec/41_hash_functions.md R143). -/

namespace Sys2Proof.Machine

/-- The bytes of a word of `8 * n` bits, most significant first. -/
def bytesBE (n : Nat) {w : Nat} (x : BitVec w) : List Byte :=
  (List.range n).map fun k => x.extractLsb' (8 * (n - 1 - k)) 8

/-- The word of width `w` that bytes compose, first byte most significant (41_hash_functions.md R143). -/
def wordBE (w : Nat) (bs : List Byte) : BitVec w :=
  bs.foldl (fun acc b => (acc <<< 8) ||| b.setWidth w) 0

/-- A block of `16 * n` bytes read as 16 words of `n` bytes each (41_hash_functions.md R143). -/
def blockWords (w n : Nat) (block : List Byte) : List (BitVec w) :=
  (List.range 16).map fun t => wordBE w ((block.drop (t * n)).take n)

/-- A padded message cut into its blocks of `b` bytes (41_hash_functions.md R141). -/
def blocksOf (b : Nat) (padded : List Byte) : List (List Byte) :=
  (List.range (padded.length / b)).map fun i => (padded.drop (i * b)).take b

/-- The number of 0x00 bytes of a padding: the smallest that brings the length after the byte 0x80 to
`b - lenBytes` modulo `b` (41_hash_functions.md R141, R142). -/
def padZeros (b lenBytes len : Nat) : Nat := (b - lenBytes + b - 1 - len % b) % b

/-- Padding to whole blocks of `b` bytes with a length field of `lenBytes` bytes: 0x80, zeros, and the
length in bits, big-endian (41_hash_functions.md R141, R142). -/
def padMessage (b lenBytes : Nat) (m : List Byte) : List Byte :=
  m ++ [0x80] ++ List.replicate (padZeros b lenBytes m.length) 0 ++
    bytesBE lenBytes (BitVec.ofNat (8 * lenBytes) (8 * m.length))

/-- `ROTR^n` on words of width `w` (41_hash_functions.md R140). -/
def rotr {w : Nat} (n : Nat) (x : BitVec w) : BitVec w := (x >>> n) ||| (x <<< (w - n))

/-- `ROTL^n(x) = ROTR^(w-n)(x)` (41_hash_functions.md R140). -/
def rotl {w : Nat} (n : Nat) (x : BitVec w) : BitVec w := rotr (w - n) x

/-- `SHR^n` (41_hash_functions.md R140). -/
def shr {w : Nat} (n : Nat) (x : BitVec w) : BitVec w := x >>> n

/-- `Ch` (41_hash_functions.md R140). -/
def ch {w : Nat} (x y z : BitVec w) : BitVec w := (x &&& y) ^^^ (~~~x &&& z)

/-- `Maj` (41_hash_functions.md R140). -/
def maj {w : Nat} (x y z : BitVec w) : BitVec w := (x &&& y) ^^^ (x &&& z) ^^^ (y &&& z)

/-- `Parity` (41_hash_functions.md R140). -/
def parity {w : Nat} (x y z : BitVec w) : BitVec w := x ^^^ y ^^^ z

/-- `W_{t-n}` of a schedule held newest word first, when W_t is the next word. -/
def back {w : Nat} (ws : List (BitVec w)) (n : Nat) : BitVec w := ws.getD (n - 1) 0

/-- A message schedule of `k` more words, each made by `next` from the words before it. `ws` is newest first. -/
def extendSchedule {w : Nat} (next : List (BitVec w) → BitVec w) : Nat → List (BitVec w) → List (BitVec w)
  | 0, ws => ws
  | k + 1, ws => extendSchedule next k (next ws :: ws)

end Sys2Proof.Machine
end

