-- ==== Sys2Proof/Machine/Sha1.lean ====
section
/-! DEFINITION. SHA-1 (spec/41_hash_functions.md R141, R143 to R148). -/

namespace Sys2Proof.Machine

/-- The SHA-1 hash value H0 to H4, and the working variables a to e. -/
structure Sha1Value where
  a : Word
  b : Word
  c : Word
  d : Word
  e : Word
  deriving DecidableEq, Repr

/-- The initial hash value (R144). -/
def sha1Init : Sha1Value :=
  { a := 0x67452301, b := 0xefcdab89, c := 0x98badcfe, d := 0x10325476, e := 0xc3d2e1f0 }

/-- The round function f_t (R145). -/
def sha1F (t : Nat) (b c d : Word) : Word :=
  if t < 20 then ch b c d else if t < 40 then parity b c d else if t < 60 then maj b c d else parity b c d

/-- The round constant K_t (R145). -/
def sha1K (t : Nat) : Word :=
  if t < 20 then 0x5a827999 else if t < 40 then 0x6ed9eba1 else if t < 60 then 0x8f1bbcdc else 0xca62c1d6

/-- W_t for t ≥ 16 (R146). -/
def sha1Next (ws : List Word) : Word := rotl 1 (back ws 3 ^^^ back ws 8 ^^^ back ws 14 ^^^ back ws 16)

/-- The message schedule W_0 to W_79 of a block's words (R146). -/
def sha1Schedule (m : List Word) : List Word := (extendSchedule sha1Next 64 m.reverse).reverse

/-- Round `t` with the schedule word `wt` (R147). -/
def sha1Round (t : Nat) (wt : Word) (h : Sha1Value) : Sha1Value :=
  { a := rotl 5 h.a + sha1F t h.b h.c h.d + h.e + sha1K t + wt, b := h.a, c := rotl 30 h.b, d := h.c, e := h.d }

/-- The rounds from `t` on, one per schedule word (R147). -/
def sha1Rounds : Nat → List Word → Sha1Value → Sha1Value
  | _, [], h => h
  | t, wt :: ws, h => sha1Rounds (t + 1) ws (sha1Round t wt h)

/-- One block: the rounds and the final addition (R147). -/
def sha1Block (h : Sha1Value) (block : List Byte) : Sha1Value :=
  let r := sha1Rounds 0 (sha1Schedule (blockWords 32 4 block)) h
  { a := h.a + r.a, b := h.b + r.b, c := h.c + r.c, d := h.d + r.d, e := h.e + r.e }

/-- The digest bytes of a hash value (R148). -/
def Sha1Value.bytes (h : Sha1Value) : List Byte :=
  bytesBE 4 h.a ++ bytesBE 4 h.b ++ bytesBE 4 h.c ++ bytesBE 4 h.d ++ bytesBE 4 h.e

/-- SHA-1 of a byte sequence (R148). -/
def sha1Hash (m : List Byte) : List Byte := ((blocksOf 64 (padMessage 64 8 m)).foldl sha1Block sha1Init).bytes

end Sys2Proof.Machine
end

