-- ==== Sys2Proof/Machine/Sha2.lean ====
section
/-! DEFINITION. SHA-256 and SHA-512 (spec/41_hash_functions.md R141 to R143, R149 to R161). SHA-512
"compresses each block exactly as SHA-256 does" but for the word width, the functions, the constants and
the number of rounds (R160), so one definition takes those as data. -/

namespace Sys2Proof.Machine

/-- The SHA-2 hash value H0 to H7, and the working variables a to h. -/
structure Sha2Value (w : Nat) where
  a : BitVec w
  b : BitVec w
  c : BitVec w
  d : BitVec w
  e : BitVec w
  f : BitVec w
  g : BitVec w
  h : BitVec w
  deriving DecidableEq, Repr

/-- Three rotation amounts of Σ0 or Σ1, or two and a shift of σ0 or σ1 (R152, R158). -/
structure Sha2Amounts where
  x : Nat
  y : Nat
  z : Nat
  deriving DecidableEq, Repr

/-- The data in which SHA-256 and SHA-512 differ (R160). -/
structure Sha2Variant (w : Nat) where
  /-- Σ0. -/
  bigSigma0 : Sha2Amounts
  /-- Σ1. -/
  bigSigma1 : Sha2Amounts
  /-- σ0; the third amount is the shift. -/
  sigma0 : Sha2Amounts
  /-- σ1; the third amount is the shift. -/
  sigma1 : Sha2Amounts
  /-- The round constants, one per round. -/
  k : List (BitVec w)
  /-- The initial hash value. -/
  init : Sha2Value w
  deriving DecidableEq, Repr

/-- Σ: three rotations (R152, R158). -/
def Sha2Amounts.rotations {w : Nat} (r : Sha2Amounts) (v : BitVec w) : BitVec w :=
  rotr r.x v ^^^ rotr r.y v ^^^ rotr r.z v

/-- σ: two rotations and a shift (R152, R158). -/
def Sha2Amounts.shifts {w : Nat} (r : Sha2Amounts) (v : BitVec w) : BitVec w :=
  rotr r.x v ^^^ rotr r.y v ^^^ shr r.z v

/-- W_t for t ≥ 16 (R153, R159). -/
def sha2Next {w : Nat} (v : Sha2Variant w) (ws : List (BitVec w)) : BitVec w :=
  v.sigma1.shifts (back ws 2) + back ws 7 + v.sigma0.shifts (back ws 15) + back ws 16

/-- The message schedule, as many words as there are round constants (R153, R159). -/
def sha2Schedule {w : Nat} (v : Sha2Variant w) (m : List (BitVec w)) : List (BitVec w) :=
  (extendSchedule (sha2Next v) (v.k.length - 16) m.reverse).reverse

/-- One round with constant `kt` and schedule word `wt` (R154). -/
def sha2Round {w : Nat} (v : Sha2Variant w) (kt wt : BitVec w) (s : Sha2Value w) : Sha2Value w :=
  let t1 := s.h + v.bigSigma1.rotations s.e + ch s.e s.f s.g + kt + wt
  let t2 := v.bigSigma0.rotations s.a + maj s.a s.b s.c
  { a := t1 + t2, b := s.a, c := s.b, d := s.c, e := s.d + t1, f := s.e, g := s.f, h := s.g }

/-- The rounds, one per pair of a constant and a schedule word (R154). -/
def sha2Rounds {w : Nat} (v : Sha2Variant w) : List (BitVec w) → List (BitVec w) → Sha2Value w → Sha2Value w
  | kt :: ks, wt :: ws, s => sha2Rounds v ks ws (sha2Round v kt wt s)
  | _, _, s => s

/-- One block of words of `n` bytes: the rounds and the final addition (R154). -/
def sha2Block {w : Nat} (v : Sha2Variant w) (n : Nat) (s : Sha2Value w) (block : List Byte) : Sha2Value w :=
  let r := sha2Rounds v v.k (sha2Schedule v (blockWords w n block)) s
  { a := s.a + r.a, b := s.b + r.b, c := s.c + r.c, d := s.d + r.d,
    e := s.e + r.e, f := s.f + r.f, g := s.g + r.g, h := s.h + r.h }

/-- The digest bytes of a hash value with words of `n` bytes (R155, R161). -/
def Sha2Value.bytes {w : Nat} (n : Nat) (s : Sha2Value w) : List Byte :=
  bytesBE n s.a ++ bytesBE n s.b ++ bytesBE n s.c ++ bytesBE n s.d ++
    bytesBE n s.e ++ bytesBE n s.f ++ bytesBE n s.g ++ bytesBE n s.h

/-- The initial hash value of SHA-256 (R150). -/
def sha256Init : Sha2Value 32 :=
  { a := 0x6a09e667, b := 0xbb67ae85, c := 0x3c6ef372, d := 0xa54ff53a,
    e := 0x510e527f, f := 0x9b05688c, g := 0x1f83d9ab, h := 0x5be0cd19 }

/-- The round constants of SHA-256 (R151). -/
def sha256K : List Word :=
  [0x428a2f98, 0x71374491, 0xb5c0fbcf, 0xe9b5dba5, 0x3956c25b, 0x59f111f1, 0x923f82a4, 0xab1c5ed5] ++
  [0xd807aa98, 0x12835b01, 0x243185be, 0x550c7dc3, 0x72be5d74, 0x80deb1fe, 0x9bdc06a7, 0xc19bf174] ++
  [0xe49b69c1, 0xefbe4786, 0x0fc19dc6, 0x240ca1cc, 0x2de92c6f, 0x4a7484aa, 0x5cb0a9dc, 0x76f988da] ++
  [0x983e5152, 0xa831c66d, 0xb00327c8, 0xbf597fc7, 0xc6e00bf3, 0xd5a79147, 0x06ca6351, 0x14292967] ++
  [0x27b70a85, 0x2e1b2138, 0x4d2c6dfc, 0x53380d13, 0x650a7354, 0x766a0abb, 0x81c2c92e, 0x92722c85] ++
  [0xa2bfe8a1, 0xa81a664b, 0xc24b8b70, 0xc76c51a3, 0xd192e819, 0xd6990624, 0xf40e3585, 0x106aa070] ++
  [0x19a4c116, 0x1e376c08, 0x2748774c, 0x34b0bcb5, 0x391c0cb3, 0x4ed8aa4a, 0x5b9cca4f, 0x682e6ff3] ++
  [0x748f82ee, 0x78a5636f, 0x84c87814, 0x8cc70208, 0x90befffa, 0xa4506ceb, 0xbef9a3f7, 0xc67178f2]

/-- The initial hash value of SHA-512 (R156). -/
def sha512Init : Sha2Value 64 :=
  { a := 0x6a09e667f3bcc908, b := 0xbb67ae8584caa73b,
    c := 0x3c6ef372fe94f82b, d := 0xa54ff53a5f1d36f1,
    e := 0x510e527fade682d1, f := 0x9b05688c2b3e6c1f,
    g := 0x1f83d9abfb41bd6b, h := 0x5be0cd19137e2179 }

/-- The round constants of SHA-512 (R157). -/
def sha512K : List DWord :=
  [0x428a2f98d728ae22, 0x7137449123ef65cd, 0xb5c0fbcfec4d3b2f, 0xe9b5dba58189dbbc] ++
  [0x3956c25bf348b538, 0x59f111f1b605d019, 0x923f82a4af194f9b, 0xab1c5ed5da6d8118] ++
  [0xd807aa98a3030242, 0x12835b0145706fbe, 0x243185be4ee4b28c, 0x550c7dc3d5ffb4e2] ++
  [0x72be5d74f27b896f, 0x80deb1fe3b1696b1, 0x9bdc06a725c71235, 0xc19bf174cf692694] ++
  [0xe49b69c19ef14ad2, 0xefbe4786384f25e3, 0x0fc19dc68b8cd5b5, 0x240ca1cc77ac9c65] ++
  [0x2de92c6f592b0275, 0x4a7484aa6ea6e483, 0x5cb0a9dcbd41fbd4, 0x76f988da831153b5] ++
  [0x983e5152ee66dfab, 0xa831c66d2db43210, 0xb00327c898fb213f, 0xbf597fc7beef0ee4] ++
  [0xc6e00bf33da88fc2, 0xd5a79147930aa725, 0x06ca6351e003826f, 0x142929670a0e6e70] ++
  [0x27b70a8546d22ffc, 0x2e1b21385c26c926, 0x4d2c6dfc5ac42aed, 0x53380d139d95b3df] ++
  [0x650a73548baf63de, 0x766a0abb3c77b2a8, 0x81c2c92e47edaee6, 0x92722c851482353b] ++
  [0xa2bfe8a14cf10364, 0xa81a664bbc423001, 0xc24b8b70d0f89791, 0xc76c51a30654be30] ++
  [0xd192e819d6ef5218, 0xd69906245565a910, 0xf40e35855771202a, 0x106aa07032bbd1b8] ++
  [0x19a4c116b8d2d0c8, 0x1e376c085141ab53, 0x2748774cdf8eeb99, 0x34b0bcb5e19b48a8] ++
  [0x391c0cb3c5c95a63, 0x4ed8aa4ae3418acb, 0x5b9cca4f7763e373, 0x682e6ff3d6b2b8a3] ++
  [0x748f82ee5defb2fc, 0x78a5636f43172f60, 0x84c87814a1f0ab72, 0x8cc702081a6439ec] ++
  [0x90befffa23631e28, 0xa4506cebde82bde9, 0xbef9a3f7b2c67915, 0xc67178f2e372532b] ++
  [0xca273eceea26619c, 0xd186b8c721c0c207, 0xeada7dd6cde0eb1e, 0xf57d4f7fee6ed178] ++
  [0x06f067aa72176fba, 0x0a637dc5a2c898a6, 0x113f9804bef90dae, 0x1b710b35131c471b] ++
  [0x28db77f523047d84, 0x32caab7b40c72493, 0x3c9ebe0a15c9bebc, 0x431d67c49c100d4c] ++
  [0x4cc5d4becb3e42b6, 0x597f299cfc657e2a, 0x5fcb6fab3ad6faec, 0x6c44198c4a475817]

/-- SHA-256: the functions of R152, the constants of R150 and R151. -/
def sha256Variant : Sha2Variant 32 where
  bigSigma0 := { x := 2, y := 13, z := 22 }
  bigSigma1 := { x := 6, y := 11, z := 25 }
  sigma0 := { x := 7, y := 18, z := 3 }
  sigma1 := { x := 17, y := 19, z := 10 }
  k := sha256K
  init := sha256Init

/-- SHA-512: the functions of R158, the constants of R156 and R157. -/
def sha512Variant : Sha2Variant 64 where
  bigSigma0 := { x := 28, y := 34, z := 39 }
  bigSigma1 := { x := 14, y := 18, z := 41 }
  sigma0 := { x := 1, y := 8, z := 7 }
  sigma1 := { x := 19, y := 61, z := 6 }
  k := sha512K
  init := sha512Init

/-- SHA-256 of a byte sequence (R141, R155). -/
def sha256Hash (m : List Byte) : List Byte :=
  ((blocksOf 64 (padMessage 64 8 m)).foldl (sha2Block sha256Variant 4) sha256Init).bytes 4

/-- SHA-512 of a byte sequence (R142, R161). -/
def sha512Hash (m : List Byte) : List Byte :=
  ((blocksOf 128 (padMessage 128 16 m)).foldl (sha2Block sha512Variant 8) sha512Init).bytes 8

/-- The greatest `r` with the given higher bits and `r ^ e ≤ x`, found one bit at a time: the integer root
that R149 calls isqrt (`e = 2`) and icbrt (`e = 3`), rounding down. -/
def integerRoot (e x : Nat) : Nat → Nat → Nat
  | 0, r => r
  | k + 1, r => integerRoot e x k (if (r + 2 ^ k) ^ e ≤ x then r + 2 ^ k else r)

/-- `isqrt`, for an argument below 2^160 (R149). -/
def isqrt (x : Nat) : Nat := integerRoot 2 x 80 0

/-- `icbrt`, for an argument below 2^240 (R149). -/
def icbrt (x : Nat) : Nat := integerRoot 3 x 80 0

/-- Whether `p` is a prime number. -/
def isPrime (p : Nat) : Bool := decide (2 ≤ p) && (List.range p).all fun d => decide (d < 2) || p % d != 0

/-- The first 80 prime numbers p_1 to p_80 (R149). -/
def primes : List Nat := (List.range 410).filter isPrime

/-- `H256_j` (R149). -/
def h256Rule : List Word := (primes.take 8).map fun p => BitVec.ofNat 32 (isqrt (p * 2 ^ 64))

/-- `K256_t` (R149). -/
def k256Rule : List Word := (primes.take 64).map fun p => BitVec.ofNat 32 (icbrt (p * 2 ^ 96))

/-- `H512_j` (R149). -/
def h512Rule : List DWord := (primes.take 8).map fun p => BitVec.ofNat 64 (isqrt (p * 2 ^ 128))

/-- `K512_t` (R149). -/
def k512Rule : List DWord := (primes.take 80).map fun p => BitVec.ofNat 64 (icbrt (p * 2 ^ 192))

end Sys2Proof.Machine
end

