-- ==== Sys2Proof/Machine/HotpCore.lean ====
section
/-! DEFINITION. The pure functions of HotpCore (spec/40_hotp_core.md R110 to R118), of WindowVerifier
(spec/42_window_verifier.md R181 to R185) and of TotpCore (spec/43_totp_core.md R210). -/

namespace Sys2Proof.Machine

/-- `Enc64(f)`: byte k is f[63-8k : 56-8k] (40_hotp_core.md R110). -/
def enc64 (f : DWord) : List Byte := bytesBE 8 f

/-- The digest length L in bytes (40_hotp_core.md R111). -/
def Alg.digestLen : Alg → Nat
  | .sha1 => 20
  | .sha256 => 32
  | .sha512 => 64

/-- The HMAC block size B in bytes (40_hotp_core.md R111). -/
def Alg.blockLen : Alg → Nat
  | .sha1 => 64
  | .sha256 => 64
  | .sha512 => 128

/-- `Hash(alg, m)` (40_hotp_core.md R111). -/
def Alg.hash : Alg → List Byte → List Byte
  | .sha1 => sha1Hash
  | .sha256 => sha256Hash
  | .sha512 => sha512Hash

/-- The block-sized key K0 (40_hotp_core.md R112). -/
def hmacKey (alg : Alg) (key : List Byte) : List Byte :=
  if key.length > alg.blockLen then
    alg.hash key ++ List.replicate (alg.blockLen - alg.digestLen) 0
  else
    key ++ List.replicate (alg.blockLen - key.length) 0

/-- A byte sequence XOR a repeated byte (00_scope.md R8). -/
def xorPad (bs : List Byte) (p : Byte) : List Byte := bs.map (· ^^^ p)

/-- `HMAC(alg, key, msg)` (40_hotp_core.md R112). -/
def hmac (alg : Alg) (key msg : List Byte) : List Byte :=
  alg.hash (xorPad (hmacKey alg key) 0x5C ++ alg.hash (xorPad (hmacKey alg key) 0x36 ++ msg))

/-- The truncation offset: the low nibble of the last digest byte (40_hotp_core.md R113). -/
def truncOffset (d : List Byte) : Nat := (d.getD (d.length - 1) 0 &&& 0x0F).toNat

/-- `DT(d)`: four bytes from the offset, the first masked with 0x7F, composed big-endian (40_hotp_core.md R114). -/
def dynTrunc (d : List Byte) : Nat :=
  let o := truncOffset d
  (d.getD o 0 &&& 0x7F).toNat * 2 ^ 24 + (d.getD (o + 1) 0).toNat * 2 ^ 16 +
    (d.getD (o + 2) 0).toNat * 2 ^ 8 + (d.getD (o + 3) 0).toNat

/-- `HOTPcode(alg, key, f, n)` (40_hotp_core.md R116, R118). -/
def hotpCode (alg : Alg) (key : List Byte) (f : DWord) (n : Nat) : Nat :=
  dynTrunc (hmac alg key (enc64 f)) % 10 ^ n

/-- `Render(c, n)`: n ASCII decimal digits, most significant first (40_hotp_core.md R117). -/
def render (c n : Nat) : List Byte :=
  (List.range n).map fun k => BitVec.ofNat 8 (0x30 + c / 10 ^ (n - 1 - k) % 10)

/-- `HOTP(alg, key, f, n)` (40_hotp_core.md R118). -/
def hotp (alg : Alg) (key : List Byte) (f : DWord) (n : Nat) : List Byte := render (hotpCode alg key f n) n

/-- `Eq(cand, s)` for a password `pw` of length `n`: equal length, and every byte equal, over all positions
with no early exit in hardware (42_window_verifier.md R181, R182; time is not modelled, 70 R309). -/
def candidateEq (cand : Candidate) (n : Nat) (pw : List Byte) : Bool :=
  decide (cand.len = n) && (List.range n).all fun k => cand.bytes.getD k 0 == pw.getD k 0

/-- The factor `c + o` of offset `o`, skipped below 0 and above 2^64 - 1 (42_window_verifier.md R183). -/
def windowFactor (c : DWord) (o : Int) : Option DWord :=
  if 0 ≤ (c.toNat : Int) + o ∧ (c.toNat : Int) + o < 2 ^ 64 then some (BitVec.ofInt 64 ((c.toNat : Int) + o))
  else none

/-- `F(c, w)`, in the ascending order of the scan (42_window_verifier.md R183, R185). -/
def windowFactors (c : DWord) (w : Nat) : List DWord :=
  (List.range (2 * w + 1)).filterMap fun i : Nat => windowFactor c ((i : Int) - (w : Int))

/-- `WindowVerify(alg, key, n, cand, c, w)` (42_window_verifier.md R184). -/
def windowVerify (alg : Alg) (key : List Byte) (n : Nat) (cand : Candidate) (c : DWord) (w : Nat) : Bool :=
  (windowFactors c w).any fun f => candidateEq cand n (hotp alg key f n)

/-- `Counter(t, i) = floor(t / i)` (43_totp_core.md R210). For i = 0, which no reachable state has, the source
calls the counter undefined: a free value (notes/assumptions/2.md). -/
def counterOf (t : DWord) (i : Word) : DWord :=
  if i = 0 then Config.counterOfZeroInterval t else BitVec.ofNat 64 (t.toNat / i.toNat)

end Sys2Proof.Machine
end

