-- ==== Sys2Proof/Machine/Bus.lean ====
section
/-! DEFINITION. The host bus (spec/20_memory.md): the address map, the read and write primitives and the
width and alignment rule. -/

namespace Sys2Proof.Machine

/-- The registers of the address map (20_memory.md R61). -/
inductive Reg where
  | cmd
  | status
  | argLo
  | argHi
  | alg
  | digits
  | window
  | interval
  | keyLen
  | candLen
  | code
  | lastCtrLo
  | lastCtrHi
  | params
  deriving DecidableEq, Repr

/-- The offset of a register (20_memory.md R61). -/
def Reg.offset : Reg → Nat
  | .cmd => 0x000
  | .status => 0x004
  | .argLo => 0x008
  | .argHi => 0x00C
  | .alg => 0x010
  | .digits => 0x014
  | .window => 0x018
  | .interval => 0x01C
  | .keyLen => 0x020
  | .candLen => 0x024
  | .code => 0x028
  | .lastCtrLo => 0x02C
  | .lastCtrHi => 0x030
  | .params => 0x034

/-- What an offset selects. -/
inductive Target where
  /-- A register. -/
  | reg (r : Reg)
  /-- A byte window, from index `i` on. -/
  | buf (b : Buffer) (i : Nat)
  /-- An unmapped offset. -/
  | unmapped
  deriving DecidableEq, Repr

/-- The byte windows (20_memory.md R61). -/
def Target.ofWindow (o : Nat) : Target :=
  if 0x100 ≤ o ∧ o < 0x200 then .buf .key (o - 0x100)
  else if 0x200 ≤ o ∧ o < 0x240 then .buf .cand (o - 0x200)
  else if 0x240 ≤ o ∧ o < 0x280 then .buf .result (o - 0x240)
  else .unmapped

/-- The address map (20_memory.md R61). -/
def Target.ofOffset (o : Nat) : Target :=
  match o with
  | 0x000 => .reg .cmd
  | 0x004 => .reg .status
  | 0x008 => .reg .argLo
  | 0x00C => .reg .argHi
  | 0x010 => .reg .alg
  | 0x014 => .reg .digits
  | 0x018 => .reg .window
  | 0x01C => .reg .interval
  | 0x020 => .reg .keyLen
  | 0x024 => .reg .candLen
  | 0x028 => .reg .code
  | 0x02C => .reg .lastCtrLo
  | 0x030 => .reg .lastCtrHi
  | 0x034 => .reg .params
  | _ => Target.ofWindow o

/-- PARAMS: MAX_DIGITS in [7:0], MAX_KEY_BYTES in [16:8], 0 above (10_state.md R43). -/
def Params.word (p : Params) : Word :=
  (0 : BitVec 15) ++ BitVec.ofNat 9 p.maxKeyBytes ++ BitVec.ofNat 8 p.maxDigits

/-- What a register reads as; CMD is write-only and reads 0 (20_memory.md R65). -/
def State.readReg (s : State) : Reg → Word
  | .cmd => 0
  | .status => s.statusWord
  | .argLo => s.argLo
  | .argHi => s.argHi
  | .alg => s.alg.code
  | .digits => s.digits
  | .window => s.window
  | .interval => s.interval
  | .keyLen => s.keyLen
  | .candLen => s.candLen
  | .code => s.code
  | .lastCtrLo => s.lastCtrLo
  | .lastCtrHi => s.lastCtrHi
  | .params => Params.word s.params

/-- `MemRead(o, 4)`, in every PHASE (20_memory.md R65). -/
def State.memRead (o : Nat) (s : State) : Word :=
  match Target.ofOffset o with
  | .reg r => s.readReg r
  | .buf b i => wordOfBytes fun j => s.bufByte b (i + j)
  | .unmapped => 0

/-- Write the four bytes of a bus word into a buffer from index `i` on, byte by byte (20_memory.md R66, R67). -/
def State.setBufWord (b : Buffer) (i : Nat) (v : Word) (s : State) : State :=
  (List.range 4).foldl (fun t j => t.setBufByte b (i + j) (byteOfWord v j)) s

/-- A write that a BUSY block drops and an IDLE block performs (20_memory.md R66). -/
def State.unlessBusy (s t : State) : State := if s.busy then s.drop else t

/-- `MemWrite(o, 4, v)` while NOW_IN carries `now` (20_memory.md R66). RO registers, the RESULT window and
unmapped offsets ignore it, even while BUSY. -/
def State.memWrite (o : Nat) (v : Word) (now : DWord) (s : State) : State :=
  match Target.ofOffset o with
  | .reg .cmd => s.unlessBusy (s.accept v now)
  | .reg .argLo => s.unlessBusy { s with argLo := v }
  | .reg .argHi => s.unlessBusy { s with argHi := v }
  | .reg .candLen => s.unlessBusy { s with candLen := v }
  | .buf .key i => s.unlessBusy (s.setBufWord .key i v)
  | .buf .cand i => s.unlessBusy (s.setBufWord .cand i v)
  | .reg .status | .reg .alg | .reg .digits | .reg .window | .reg .interval | .reg .keyLen | .reg .code => s
  | .reg .lastCtrLo | .reg .lastCtrHi | .reg .params => s
  | .buf .result _ => s
  | .unmapped => s

/-- Whether the address lies in the window at BASE_ADDR (20_memory.md R60). -/
def Access.inWindow (p : Params) (a : Access) : Bool :=
  decide (p.baseAddr ≤ a.addr) && decide (a.addr < p.baseAddr + Config.windowBytes)

/-- The offset of the access in the window (20_memory.md R60). -/
def Access.offset (p : Params) (a : Access) : Nat := a.addr - p.baseAddr

/-- "Every host access is a 32-bit access to an offset that is a multiple of 4" (20_memory.md R62). -/
def Access.wordAligned (p : Params) (a : Access) : Bool := a.width == 4 && a.offset p % 4 == 0

/-- One host access (20_memory.md R62, R65, R66): a fault of the host's program, or a read, which changes
nothing but the reply, or a write. -/
def performAccess (a : Access) (now : DWord) (s : State) : Host.Outcome State Fault Refusal :=
  if a.inWindow s.params then
    if a.wordAligned s.params then
      match a.kind with
      | .read => .next (s.withReply (.data (s.memRead (a.offset s.params))))
      | .write v => .next ((s.memWrite (a.offset s.params) v now).withReply .ack)
    else .fault .busError
  else .fault .outsideWindow

end Sys2Proof.Machine
end

