-- ==== Sys2Proof/Machine/Configuration.lean ====
section
/-! DEFINITION. The validated setters (spec/44_configuration.md): each checks its new value at completion
and either commits it or raises its error and commits nothing (R240). -/

namespace Sys2Proof.Machine

/-- SET_SECRET (R241). KEY bytes are neither copied nor cleared. -/
def execSetSecret (s : State) : Host.Outcome State Fault Refusal :=
  .next <|
    if s.argUnsigned > s.params.maxKeyBytes then s.raiseError .invalidSecretLength
    else ({ s with keyLen := s.argLo }).finish

/-- SET_ALGORITHM (R242), with the digest-length check that no supported digest fails. -/
def execSetAlgorithm (s : State) : Host.Outcome State Fault Refusal :=
  .next <|
    match Alg.ofCode s.argLo with
    | none => s.raiseError .unsupportedAlgorithm
    | some a => if a.digestLen < 19 then s.raiseError .unsupportedAlgorithm else ({ s with alg := a }).finish

/-- SET_PASSWORD_LENGTH (R243). -/
def execSetPasswordLength (s : State) : Host.Outcome State Fault Refusal :=
  .next <|
    if s.argSigned < 1 then s.raiseError .invalidPasswordLength
    else if s.argSigned > (s.params.maxDigits : Int) then s.raiseError .invalidPasswordLength
    else ({ s with digits := s.argLo }).finish

/-- SET_WINDOW_SIZE (R244). -/
def execSetWindowSize (s : State) : Host.Outcome State Fault Refusal :=
  .next <|
    if s.argSigned < 0 then s.raiseError .invalidWindowSize else ({ s with window := s.argLo }).finish

/-- SET_INTERVAL (R245). -/
def execSetInterval (s : State) : Host.Outcome State Fault Refusal :=
  .next <|
    if s.argSigned ≤ 0 then s.raiseError .invalidInterval else ({ s with interval := s.argLo }).finish

end Sys2Proof.Machine
end

