-- ==== Sys2Proof/Machine/Hotp.lean ====
section
/-! DEFINITION. The shared effects of a generate and of a verify at a moving factor, and the two HOTP
commands (spec/40_hotp_core.md R119, spec/42_window_verifier.md R186). -/

namespace Sys2Proof.Machine

/-- The code of the configured generator at the moving factor `f` (40_hotp_core.md R119). -/
def State.codeAt (f : DWord) (s : State) : Nat := hotpCode s.alg s.secret f s.digits.toNat

/-- Whether the candidate matches a factor of the window around `c` (42_window_verifier.md R186). -/
def State.matchesAt (c : DWord) (s : State) : Bool :=
  windowVerify s.alg s.secret s.digits.toNat s.candidate c s.window.toNat

/-- A generate at the moving factor `f`: CODE, RESULT and LAST_CTR (40_hotp_core.md R119). -/
def State.generateAt (f : DWord) (s : State) : State :=
  ((s.setResult (s.codeAt f) (render (s.codeAt f) s.digits.toNat)).setLastCtr f).finish

/-- A verify around the centre `c`: STATUS.MATCH and LAST_CTR (42_window_verifier.md R186). -/
def State.verifyAt (c : DWord) (s : State) : State :=
  ((s.setMatch (s.matchesAt c)).setLastCtr c).finish

/-- HOTP_GENERATE: the moving factor is ARG64 (40_hotp_core.md R119). -/
def execHotpGenerate (s : State) : Host.Outcome State Fault Refusal := .next (s.generateAt s.arg64)

/-- HOTP_VERIFY: the centre is ARG64 (42_window_verifier.md R186). -/
def execHotpVerify (s : State) : Host.Outcome State Fault Refusal := .next (s.verifyAt s.arg64)

end Sys2Proof.Machine
end

