-- ==== Sys2Proof/Machine/Totp.lean ====
section
/-! DEFINITION. The TOTP commands (spec/43_totp_core.md R213 to R216): the moving factor or centre is the
time-step counter of a timestamp (R210), which is ARG64 or the sample in NOW_LATCH (R211). -/

namespace Sys2Proof.Machine

/-- TOTP_GENERATE (R213). -/
def execTotpGenerate (s : State) : Host.Outcome State Fault Refusal :=
  .next (s.generateAt (counterOf s.arg64 s.interval))

/-- TOTP_GENERATE_NOW (R214). -/
def execTotpGenerateNow (s : State) : Host.Outcome State Fault Refusal :=
  .next (s.generateAt (counterOf s.nowLatch s.interval))

/-- TOTP_VERIFY (R215). -/
def execTotpVerify (s : State) : Host.Outcome State Fault Refusal :=
  .next (s.verifyAt (counterOf s.arg64 s.interval))

/-- TOTP_VERIFY_NOW (R216). -/
def execTotpVerifyNow (s : State) : Host.Outcome State Fault Refusal :=
  .next (s.verifyAt (counterOf s.nowLatch s.interval))

end Sys2Proof.Machine
end

