-- ==== Sys2Proof/Machine/Dispatch.lean ====
section
/-! DEFINITION. The meaning of every command at its completion: one arm per constructor of Instr. -/

namespace Sys2Proof.Machine

def exec (i : Instr) (s : State) : Host.Outcome State Fault Refusal :=
  match i with
  | .setSecret => Sys2Proof.Machine.execSetSecret s
  | .setAlgorithm => Sys2Proof.Machine.execSetAlgorithm s
  | .setPasswordLength => Sys2Proof.Machine.execSetPasswordLength s
  | .setWindowSize => Sys2Proof.Machine.execSetWindowSize s
  | .setInterval => Sys2Proof.Machine.execSetInterval s
  | .hotpGenerate => Sys2Proof.Machine.execHotpGenerate s
  | .hotpVerify => Sys2Proof.Machine.execHotpVerify s
  | .totpGenerate => Sys2Proof.Machine.execTotpGenerate s
  | .totpVerify => Sys2Proof.Machine.execTotpVerify s
  | .totpGenerateNow => Sys2Proof.Machine.execTotpGenerateNow s
  | .totpVerifyNow => Sys2Proof.Machine.execTotpVerifyNow s

end Sys2Proof.Machine
end

