-- ==== Sys2Proof/Machine/Engine.lean ====
section
/-! DEFINITION. The moves of the agents (spec/10_state.md R20): the engine's completion, a host access,
reset. -/

namespace Sys2Proof.Machine

/-- Completion of the command in PEND (30_encoding.md R99): an illegal word raises IllegalCommand
(R92, R93; 60_exceptions.md R277), a legal one has its meaning. -/
def completion (s : State) : Host.Outcome State Fault Refusal :=
  match decode s.pend with
  | .ok i => exec i s
  | .error _ => .next (s.raiseError .illegalCommand)

/-- The engine's move: completion if PHASE = BUSY, and no step while PHASE = IDLE (30_encoding.md R99). -/
def engineMove (s : State) : Host.Outcome State Fault Refusal :=
  if s.busy then completion s else .next s

/-- One move of an agent (20_memory.md R70). -/
def agentMove (m : Input) (s : State) : Host.Outcome State Fault Refusal :=
  match m with
  | .engine => engineMove s
  | .access a now => performAccess a now s
  | .reset => .next s.resetBlock

/-- The next move: the first of the moves still to come, or the engine's when no other is to come, which is
the weak fairness of 70_reset_and_hazards.md R310. -/
def nextMove (s : State) : Host.Outcome State Fault Refusal :=
  match s.inputs with
  | [] => engineMove s
  | m :: rest => agentMove m (s.withInputs rest)

end Sys2Proof.Machine
end

