-- ==== Sys2Proof/Machine/Step.lean ====
section
/-! DEFINITION. One step of the machine, and how a command word comes to be the next one it runs. -/

namespace Sys2Proof.Machine

/-- One step: the next move of an agent, refused if a parameter is outside its legal range (00_scope.md R6). -/
def step (s : State) : Host.Outcome State Fault Refusal :=
  if s.params.wellFormed then nextMove s else .refused .parameterOutOfRange

/-- The state in which the command word `w` has been accepted and the engine moves next. A command word is
not fetched from memory (20_memory.md R74): it waits in PEND, where acceptance puts it (30_encoding.md R98).
NOW_LATCH keeps its value, as if NOW_IN had carried it (notes/assumptions/7.md). -/
def State.withFetchWord (s : State) (nbits w : Nat) : State :=
  (s.accept (BitVec.ofNat 32 (w % 2 ^ nbits)) s.nowLatch).withInputs (.engine :: s.inputs)

end Sys2Proof.Machine
end

