-- ==== Sys2Proof/Safety.lean ====
section
/-! DEFINITION. What claims about runs are stated with: the invariants of the block, and the frame
predicates that say what a completion leaves unchanged. -/

namespace Sys2Proof

open Sys2Proof.Machine

/-- The configuration invariants (10_state.md R50) for legal parameters (00_scope.md R6). ALG ∈ {0, 1, 2} is
the type `Alg`. -/
def ConfigInv (s : State) : Prop :=
  s.params.wellFormed = true ∧
  1 ≤ s.digits.toNat ∧ s.digits.toNat ≤ s.params.maxDigits ∧
  s.window.toNat < 2 ^ 31 ∧
  1 ≤ s.interval.toNat ∧ s.interval.toNat < 2 ^ 31 ∧
  s.keyLen.toNat ≤ s.params.maxKeyBytes

/-- The STATUS invariants (10_state.md R36 to R41, R46): while BUSY the fields are as acceptance left them; an
error code is present exactly with ERR and is one of R271's; MATCH is set by verify commands alone, never
with ERR; LASTOP is PEND[7:0]. -/
def StatusInv (s : State) : Prop :=
  (s.phase = .busy → s.status.done = false ∧ s.status.err = false ∧ s.status.matched = false) ∧
  (s.status.err = false → s.status.errcode = 0) ∧
  (s.status.err = true → s.status.matched = false ∧ ∃ e : ErrorKind, s.status.errcode = e.code) ∧
  (s.status.matched = true → s.status.lastop = 0x11 ∨ s.status.lastop = 0x21 ∨ s.status.lastop = 0x23) ∧
  s.status.lastop = s.pend.extractLsb' 0 8

/-- An offset that is storage: within the capacity of a buffer (20_memory.md R67). -/
def IsStorage (p : Params) (a : Nat) : Prop :=
  (0x100 ≤ a ∧ a < 0x100 + p.maxKeyBytes) ∨ (0x200 ≤ a ∧ a < 0x200 + p.maxDigits) ∨
    (0x240 ≤ a ∧ a < 0x240 + p.maxDigits)

/-- Memory is in its canonical form and lists storage alone (20_memory.md R67). -/
def MemInv (s : State) : Prop := s.mem.wf ∧ ∀ c ∈ s.mem, IsStorage s.params c.1

/-- CODE is below 2^31 (10_state.md R32), and every RESULT byte is an ASCII digit or 0x00 (R33). -/
def ResultInv (s : State) : Prop :=
  s.code.toNat < 2 ^ 31 ∧
  ∀ k, s.bufByte .result k = 0 ∨ (0x30 ≤ (s.bufByte .result k).toNat ∧ (s.bufByte .result k).toNat ≤ 0x39)

/-- The invariant that every step keeps. -/
def MachineInv (s : State) : Prop := ConfigInv s ∧ StatusInv s ∧ MemInv s ∧ ResultInv s

/-- The configuration registers and the parameters are unchanged. -/
def SameConfig (s t : State) : Prop :=
  t.params = s.params ∧ t.alg = s.alg ∧ t.digits = s.digits ∧ t.window = s.window ∧
    t.interval = s.interval ∧ t.keyLen = s.keyLen

/-- The registers only the host writes are unchanged: ARG_LO, ARG_HI, CAND_LEN. -/
def SameHostRegs (s t : State) : Prop := t.argLo = s.argLo ∧ t.argHi = s.argHi ∧ t.candLen = s.candLen

/-- CODE and LAST_CTR are unchanged. -/
def SameResultRegs (s t : State) : Prop :=
  t.code = s.code ∧ t.lastCtrLo = s.lastCtrLo ∧ t.lastCtrHi = s.lastCtrHi

/-- The hidden latches PEND and NOW_LATCH are unchanged. -/
def SameLatches (s t : State) : Prop := t.pend = s.pend ∧ t.nowLatch = s.nowLatch

/-- Every byte of memory reads as before. -/
def SameMemory (s t : State) : Prop := ∀ a, t.mem.read a = s.mem.read a

/-- The moves still to come and the last bus reply are unchanged. -/
def SameOutside (s t : State) : Prop := t.inputs = s.inputs ∧ t.reply = s.reply

/-- The end of a completion without an error: IDLE, DONE, every other STATUS field as before but for MATCH,
which is `m` (30_encoding.md R99). -/
def CompletedWith (m : Bool) (s t : State) : Prop :=
  t.phase = .idle ∧ t.status.done = true ∧ t.status.matched = m ∧ t.status.err = s.status.err ∧
    t.status.errcode = s.status.errcode ∧ t.status.dropped = s.status.dropped ∧ t.status.lastop = s.status.lastop

/-- The end of a completion that raised the error of code `c` (60_exceptions.md R282): IDLE, DONE, ERR, the
code, no match, DROPPED and LASTOP as before. -/
def FailedWith (c : Nat) (s t : State) : Prop :=
  t.phase = .idle ∧ t.status.done = true ∧ t.status.err = true ∧ t.status.errcode.toNat = c ∧
    t.status.matched = false ∧ t.status.dropped = s.status.dropped ∧ t.status.lastop = s.status.lastop

/-- Everything but STATUS and PHASE is unchanged (60_exceptions.md R282). -/
def SameButStatus (s t : State) : Prop :=
  SameConfig s t ∧ SameHostRegs s t ∧ SameResultRegs s t ∧ SameLatches s t ∧ SameMemory s t ∧ SameOutside s t

/-- The candidate equals the password of moving factor `f` (42_window_verifier.md R181): CAND_LEN = DIGITS and
every CAND byte below DIGITS equals the password's. -/
def CandidateIs (s : State) (f : DWord) : Prop :=
  s.candLen = s.digits ∧
  ∀ k < s.digits.toNat, s.bufByte .cand k = (hotp s.alg s.secret f s.digits.toNat).getD k 0

/-- A factor of the window F(c, w) with `c` the centre and w = WINDOW (42_window_verifier.md R183). -/
def InWindow (s : State) (c f : DWord) : Prop :=
  ∃ o : Int, -(s.window.toNat : Int) ≤ o ∧ o ≤ (s.window.toNat : Int) ∧ (f.toNat : Int) = (c.toNat : Int) + o

/-- `t` is `s` after a generate at the moving factor `f` (40_hotp_core.md R119): CODE, RESULT and LAST_CTR as the
rule gives them, MATCH as before, and everything else unchanged. -/
def GeneratedAt (f : DWord) (s t : State) : Prop :=
  t.code.toNat = dynTrunc (hmac s.alg ((List.range s.keyLen.toNat).map (s.bufByte .key)) (enc64 f)) % 10 ^ s.digits.toNat ∧
  (∀ k < s.digits.toNat,
    (t.bufByte .result k).toNat = 0x30 + t.code.toNat / 10 ^ (s.digits.toNat - 1 - k) % 10) ∧
  (∀ k, s.digits.toNat ≤ k → t.bufByte .result k = 0) ∧
  t.lastCtrHi ++ t.lastCtrLo = f ∧
  CompletedWith s.status.matched s t ∧
  SameConfig s t ∧ SameHostRegs s t ∧ SameLatches s t ∧ SameOutside s t ∧
  ∀ a, ¬(Buffer.result.base ≤ a ∧ a < Buffer.result.base + s.params.maxDigits) → t.mem.read a = s.mem.read a

/-- `t` is `s` after a verify around the centre `c` (42_window_verifier.md R186): MATCH says whether the candidate
is the password of some factor of the window, LAST_CTR is the centre, and everything else is unchanged. -/
def VerifiedAt (c : DWord) (s t : State) : Prop :=
  (t.status.matched = true ↔ ∃ f, InWindow s c f ∧ CandidateIs s f) ∧
  t.lastCtrHi ++ t.lastCtrLo = c ∧ t.code = s.code ∧
  CompletedWith t.status.matched s t ∧
  SameConfig s t ∧ SameHostRegs s t ∧ SameLatches s t ∧ SameMemory s t ∧ SameOutside s t

/-- `s` and `s'` hold the same of everything that a generate or a verify may read (10_state.md R49): the
configuration with the KEY bytes below KEY_LEN, ARG64, NOW_LATCH, and the candidate's bytes below CAND_LEN. -/
def SameInputs (s s' : State) : Prop :=
  SameConfig s s' ∧ SameHostRegs s s' ∧ s'.nowLatch = s.nowLatch ∧
  (∀ i < s.keyLen.toNat, s'.bufByte .key i = s.bufByte .key i) ∧
  ∀ k < s.candLen.toNat, s'.bufByte .cand k = s.bufByte .cand k

/-- A host access that the bus answers: in the window, 32 bits wide, aligned (20_memory.md R62). -/
def GoodAccess (p : Params) : Input → Prop
  | .access a _ => p.baseAddr ≤ a.addr ∧ a.addr < p.baseAddr + 0x1000 ∧ a.width = 4 ∧ (a.addr - p.baseAddr) % 4 = 0
  | .engine => False
  | .reset => False

/-- The next move is the completion of the command in PEND (30_encoding.md R99). -/
def Completes (s : State) : Prop := s.phase = .busy ∧ (s.inputs = [] ∨ ∃ rest, s.inputs = .engine :: rest)

/-- The next move is a host write of the word `v` at offset `o`. -/
def HostWrites (o : Nat) (v : Word) (s : State) : Prop :=
  ∃ a now rest, s.inputs = .access a now :: rest ∧ a.addr = s.params.baseAddr + o ∧ a.kind = .write v

/-- The next move is the acceptance of the command word `w` (30_encoding.md R98). -/
def Accepts (w : Word) (s : State) : Prop := s.phase = .idle ∧ HostWrites 0x000 w s

/-- A command word that is not one of the eleven of 30_encoding.md R91: reserved bits set, or an OPCODE that the
table does not list (60_exceptions.md R277). -/
def IllegalWord (w : Word) : Prop :=
  w.extractLsb' 8 24 ≠ 0 ∨
  w.extractLsb' 0 8 ∉ ([0x01, 0x02, 0x03, 0x04, 0x05, 0x10, 0x11, 0x20, 0x21, 0x22, 0x23] : List Byte)

/-- The cause of error code `c` for the command in PEND, as the table of 60_exceptions.md R271 gives it. -/
def ErrorCause (s : State) (c : Nat) : Prop :=
  (c = 1 ∧ s.pend = 0x00000003 ∧ (s.argLo.toInt < 1 ∨ (s.params.maxDigits : Int) < s.argLo.toInt)) ∨
  (c = 2 ∧ s.pend = 0x00000004 ∧ s.argLo.toInt < 0) ∨
  (c = 3 ∧ s.pend = 0x00000005 ∧ s.argLo.toInt ≤ 0) ∨
  (c = 4 ∧ s.pend = 0x00000002 ∧ 2 < s.argLo.toNat) ∨
  (c = 5 ∧ s.pend = 0x00000001 ∧ s.params.maxKeyBytes < s.argLo.toNat) ∨
  (c = 6 ∧ IllegalWord s.pend)

/-- The commands that generate a password. -/
def IsGenerate (i : Instr) : Prop := i = .hotpGenerate ∨ i = .totpGenerate ∨ i = .totpGenerateNow

/-- The commands that verify a candidate. -/
def IsVerify (i : Instr) : Prop := i = .hotpVerify ∨ i = .totpVerify ∨ i = .totpVerifyNow

/-- The access of the 32-bit word at offset `o` of the block. -/
def wordAccess (p : Params) (o : Nat) (k : AccessKind) : Access := { addr := p.baseAddr + o, width := 4, kind := k }

end Sys2Proof
end

