-- ==== Sys2Proof/Certificates/Slice0/Obligations.lean ====
section
/-! DEFINITION. The statements for the provers. Each docstring names the rule of spec/ it formalises. -/

open Sys2Proof Sys2Proof.Machine

/-! ### Reset (70_reset_and_hazards.md) -/

/-- R300 and R301: the reset input puts every piece of state into its reset value, whatever the PHASE, so a command
in flight is aborted with none of its writes; the parameters, and with them PARAMS, stay. -/
def Obligations.ResetInputGivesTheResetValues : Prop :=
  ∀ (s : State) (rest : List Input), s.params.wellFormed = true → s.inputs = .reset :: rest →
    ∃ t, step s = .next t ∧ t.params = s.params ∧ t.alg.code = 0 ∧ t.digits = 6 ∧ t.window = 1 ∧ t.interval = 30 ∧
      t.keyLen = 0 ∧ t.argLo = 0 ∧ t.argHi = 0 ∧ t.candLen = 0 ∧ t.code = 0 ∧ t.lastCtrLo = 0 ∧ t.lastCtrHi = 0 ∧
      (∀ b i, t.bufByte b i = 0) ∧ (∀ a, t.mem.read a = 0) ∧ t.statusWord = 0 ∧ t.phase = .idle ∧ t.pend = 0 ∧
      t.nowLatch = 0

/-- R300 for the machine's first state, with the default parameters of R6. -/
def Obligations.FirstStateHoldsTheResetValues : Prop :=
  let s := State.reset
  s.params.maxDigits = 10 ∧ s.params.maxKeyBytes = 128 ∧ s.alg.code = 0 ∧ s.digits = 6 ∧ s.window = 1 ∧
    s.interval = 30 ∧ s.keyLen = 0 ∧ s.argLo = 0 ∧ s.argHi = 0 ∧ s.candLen = 0 ∧ s.code = 0 ∧ s.lastCtrLo = 0 ∧
    s.lastCtrHi = 0 ∧ (∀ b i, s.bufByte b i = 0) ∧ s.statusWord = 0 ∧ s.phase = .idle ∧ s.pend = 0 ∧ s.nowLatch = 0

/-! ### STATUS and PARAMS (10_state.md) -/

/-- R42 and the layout of 10_state.md section 7: each field at its bits, the reserved bits 0 in every state, and BUSY
set exactly when PHASE = BUSY. -/
def Obligations.StatusFieldsStandAtTheirBits : Prop :=
  ∀ s : State,
    (s.statusWord.getLsbD 0 = true ↔ s.phase = .busy) ∧ s.statusWord.getLsbD 1 = s.status.done ∧
    s.statusWord.getLsbD 2 = s.status.err ∧ s.statusWord.getLsbD 3 = s.status.matched ∧
    s.statusWord.getLsbD 4 = s.status.dropped ∧ s.statusWord.extractLsb' 5 3 = 0 ∧
    s.statusWord.extractLsb' 8 4 = s.status.errcode ∧ s.statusWord.extractLsb' 12 4 = 0 ∧
    s.statusWord.extractLsb' 16 8 = s.status.lastop ∧ s.statusWord.extractLsb' 24 8 = 0

/-- R43: PARAMS shows MAX_DIGITS in [7:0] and MAX_KEY_BYTES in [16:8], 0 above, and no step, a reset among them,
changes it. -/
def Obligations.ParamsShowsTheCapacitiesAndIsConstant : Prop :=
  (∀ s : State, s.params.wellFormed = true →
    ((s.memRead 0x034).extractLsb' 0 8).toNat = s.params.maxDigits ∧
    ((s.memRead 0x034).extractLsb' 8 9).toNat = s.params.maxKeyBytes ∧ (s.memRead 0x034).extractLsb' 17 15 = 0) ∧
  ∀ s t : State, step s = .next t → t.memRead 0x034 = s.memRead 0x034

/-! ### The host bus (20_memory.md) -/

/-- R62 and R279: inside the window, an access faults with a bus error exactly when it is not 32 bits wide or not at
a multiple of 4, and every other access, at an unmapped offset too, is answered. -/
def Obligations.AccessFaultsExactlyWhenNarrowOrMisaligned : Prop :=
  ∀ (s : State) (a : Access) (now : DWord) (rest : List Input),
    s.params.wellFormed = true → s.inputs = .access a now :: rest →
    s.params.baseAddr ≤ a.addr → a.addr < s.params.baseAddr + 0x1000 →
    (step s = .fault .busError ↔ ¬(a.width = 4 ∧ (a.addr - s.params.baseAddr) % 4 = 0)) ∧
    (a.width = 4 ∧ (a.addr - s.params.baseAddr) % 4 = 0 → ∃ t, step s = .next t)

/-- R65 with the address map of R61 and the packing of R63: the value of a read at every offset, in every PHASE; a read
changes nothing but the move list and the reply. -/
def Obligations.ReadReturnsTheMappedValueAndChangesNothing : Prop :=
  ∀ (s : State) (o : Nat) (now : DWord) (rest : List Input),
    s.params.wellFormed = true → s.inputs = .access (wordAccess s.params o .read) now :: rest →
    o % 4 = 0 → o < 0x1000 →
    ∃ v : Word, step s = .next ((s.withInputs rest).withReply (.data v)) ∧
      (o = 0x000 → v = 0) ∧ (o = 0x004 → v = s.statusWord) ∧ (o = 0x008 → v = s.argLo) ∧ (o = 0x00C → v = s.argHi) ∧
      (o = 0x010 → v = s.alg.code) ∧ (o = 0x014 → v = s.digits) ∧ (o = 0x018 → v = s.window) ∧
      (o = 0x01C → v = s.interval) ∧ (o = 0x020 → v = s.keyLen) ∧ (o = 0x024 → v = s.candLen) ∧
      (o = 0x028 → v = s.code) ∧ (o = 0x02C → v = s.lastCtrLo) ∧ (o = 0x030 → v = s.lastCtrHi) ∧
      (o = 0x034 → v = BitVec.ofNat 32 (s.params.maxDigits + 256 * s.params.maxKeyBytes)) ∧
      (0x038 ≤ o → o < 0x100 → v = 0) ∧ (0x280 ≤ o → v = 0) ∧
      (0x100 ≤ o → o < 0x200 → ∀ j < 4,
        v.extractLsb' (8 * j) 8 = if o - 0x100 + j < s.params.maxKeyBytes then s.mem.read (o + j) else 0) ∧
      (0x200 ≤ o → o < 0x240 → ∀ j < 4,
        v.extractLsb' (8 * j) 8 = if o - 0x200 + j < s.params.maxDigits then s.mem.read (o + j) else 0) ∧
      (0x240 ≤ o → o < 0x280 → ∀ j < 4,
        v.extractLsb' (8 * j) 8 = if o - 0x240 + j < s.params.maxDigits then s.mem.read (o + j) else 0)

/-- R66, the KEY and CAND windows while IDLE: byte j of the word goes to the byte at offset + j where that is storage
(R67), every other byte of memory reads as before, and no register, KEY_LEN among them, changes. -/
def Obligations.IdleWindowWriteStoresItsFourBytes : Prop :=
  ∀ (s : State) (o : Nat) (v : Word) (now : DWord) (rest : List Input),
    s.params.wellFormed = true → s.mem.wf → s.phase = .idle →
    s.inputs = .access (wordAccess s.params o (.write v)) now :: rest →
    o % 4 = 0 → 0x100 ≤ o → o < 0x240 →
    ∃ t, step s = .next t ∧
      (∀ j < 4, IsStorage s.params (o + j) → t.mem.read (o + j) = v.extractLsb' (8 * j) 8) ∧
      (∀ a, ¬(o ≤ a ∧ a < o + 4 ∧ IsStorage s.params a) → t.mem.read a = s.mem.read a) ∧
      SameConfig s t ∧ SameHostRegs s t ∧ SameResultRegs s t ∧ SameLatches s t ∧ t.status = s.status ∧
      t.phase = .idle ∧ t.inputs = rest ∧ t.reply = .ack

/-- R67: a window byte beyond the capacity of its buffer reads as 0 and ignores writes, byte by byte, in the KEY, CAND
and RESULT windows. -/
def Obligations.WindowBytesBeyondTheCapacityAreNotStorage : Prop :=
  ∀ (s : State) (b : Buffer) (i j : Nat) (v : Word) (now : DWord),
    i % 4 = 0 → i < b.size → j < 4 → b.cap s.params ≤ i + j →
    (s.memRead (b.base + i)).extractLsb' (8 * j) 8 = 0 ∧
    (s.memWrite (b.base + i) v now).mem.read (b.base + i + j) = s.mem.read (b.base + i + j) ∧
    ((s.memWrite (b.base + i) v now).memRead (b.base + i)).extractLsb' (8 * j) 8 = 0

/-- R66, the RW registers while IDLE: ARG_LO, ARG_HI and CAND_LEN take any word, and nothing else changes. -/
def Obligations.IdleRegisterWriteStoresTheWord : Prop :=
  ∀ (s : State) (o : Nat) (v : Word) (now : DWord) (rest : List Input),
    s.params.wellFormed = true → s.phase = .idle →
    s.inputs = .access (wordAccess s.params o (.write v)) now :: rest →
    (o = 0x008 → step s = .next { s with argLo := v, inputs := rest, reply := .ack }) ∧
    (o = 0x00C → step s = .next { s with argHi := v, inputs := rest, reply := .ack }) ∧
    (o = 0x024 → step s = .next { s with candLen := v, inputs := rest, reply := .ack })

/-- R280: a write to CMD, ARG_LO, ARG_HI, CAND_LEN, the KEY window or the CAND window while BUSY is discarded and sets
DROPPED; it touches neither ERR, ERRCODE nor the command in flight, nor anything else. -/
def Obligations.BusyWriteIsDropped : Prop :=
  ∀ (s : State) (o : Nat) (v : Word) (now : DWord) (rest : List Input),
    s.params.wellFormed = true → s.phase = .busy →
    s.inputs = .access (wordAccess s.params o (.write v)) now :: rest → o % 4 = 0 →
    (o = 0x000 ∨ o = 0x008 ∨ o = 0x00C ∨ o = 0x024 ∨ (0x100 ≤ o ∧ o < 0x240)) →
    step s = .next { s with status := { s.status with dropped := true }, inputs := rest, reply := .ack }

/-- R66: a write to a read-only register, the RESULT window or an unmapped offset has no effect and is no dropped
write, in every PHASE. -/
def Obligations.WriteToReadOnlyOrUnmappedIsIgnored : Prop :=
  ∀ (s : State) (o : Nat) (v : Word) (now : DWord) (rest : List Input),
    s.params.wellFormed = true → s.inputs = .access (wordAccess s.params o (.write v)) now :: rest → o % 4 = 0 →
    (o = 0x004 ∨ (0x010 ≤ o ∧ o ≤ 0x020) ∨ (0x028 ≤ o ∧ o < 0x100) ∨ (0x240 ≤ o ∧ o < 0x1000)) →
    step s = .next ((s.withInputs rest).withReply .ack)

/-- R63 to R66: a word written into the KEY or CAND window while IDLE, all four bytes within the capacity, is the word
that the next read of that offset returns. -/
def Obligations.WindowWriteThenReadReturnsTheWord : Prop :=
  ∀ (s : State) (o : Nat) (v : Word) (now now' : DWord) (rest : List Input),
    s.params.wellFormed = true → s.mem.wf → s.phase = .idle →
    s.inputs = .access (wordAccess s.params o (.write v)) now :: .access (wordAccess s.params o .read) now' :: rest →
    o % 4 = 0 → ((0x100 ≤ o ∧ o + 4 ≤ 0x100 + s.params.maxKeyBytes) ∨ (0x200 ≤ o ∧ o + 4 ≤ 0x200 + s.params.maxDigits)) →
    ∃ t, Host.Core.run Sys2Proof.core 2 s = .next t ∧ t.reply = .data v

/-- R68: repeating a write to any offset but CMD's leaves the same state, whatever the PHASE. -/
def Obligations.RepeatingAWriteLeavesTheSameState : Prop :=
  ∀ (s : State) (o : Nat) (v : Word) (now now' : DWord), s.mem.wf → o % 4 = 0 → o ≠ 0x000 →
    (s.memWrite o v now).memWrite o v now' = s.memWrite o v now

/-! ### Acceptance and completion (30_encoding.md) -/

/-- R98: a CMD write while IDLE latches the word, makes the block BUSY, clears STATUS, records LASTOP and samples NOW_IN
for the two _NOW words alone, and writes nothing else; while BUSY it is no acceptance. -/
def Obligations.CmdWriteWhileIdleAcceptsTheCommand : Prop :=
  ∀ (s : State) (w : Word) (now : DWord) (rest : List Input),
    s.params.wellFormed = true → s.inputs = .access (wordAccess s.params 0x000 (.write w)) now :: rest →
    ∃ t, step s = .next t ∧ SameConfig s t ∧ SameHostRegs s t ∧ SameResultRegs s t ∧ t.mem = s.mem ∧
      t.inputs = rest ∧ t.reply = .ack ∧ t.phase = .busy ∧
      (s.phase = .idle →
        t.pend = w ∧ t.statusWord.getLsbD 0 = true ∧ t.status.done = false ∧ t.status.err = false ∧
        t.status.matched = false ∧ t.status.dropped = false ∧ t.status.errcode = 0 ∧
        t.status.lastop = w.extractLsb' 0 8 ∧
        t.nowLatch = if w = 0x00000022 ∨ w = 0x00000023 then now else s.nowLatch) ∧
      (s.phase = .busy → t.pend = s.pend ∧ t.nowLatch = s.nowLatch ∧ t.status = { s.status with dropped := true })

/-- R99: a step of the engine while BUSY is the meaning of the command that PEND decodes to; with no move of another
agent to come the engine moves too (notes/assumptions/3.md). -/
def Obligations.StepRunsTheDecodedCommand : Prop :=
  ∀ (s : State) (i : Instr), s.params.wellFormed = true → s.phase = .busy → decode s.pend = .ok i →
    (∀ rest, s.inputs = .engine :: rest → step s = exec i (s.withInputs rest)) ∧
    (s.inputs = [] → step s = exec i s)

/-- The model's own way to place a command (notes/assumptions/7.md): after `withFetchWord` the very next step runs the
command whose word it was given, on the state that acceptance leaves. -/
def Obligations.PlacedWordIsTheNextCommandRun : Prop :=
  ∀ (s : State) (i : Instr), s.params.wellFormed = true →
    step (s.withFetchWord 32 (encode i).toNat) = exec i (s.accept (encode i) s.nowLatch)

/-- R99: the engine takes no step while PHASE = IDLE. -/
def Obligations.EngineTakesNoStepWhileIdle : Prop :=
  ∀ s : State, s.params.wellFormed = true → s.phase = .idle →
    (s.inputs = [] → step s = .next s) ∧
    (∀ rest, s.inputs = .engine :: rest → step s = .next (s.withInputs rest))

/-- R277: the completion of an illegal word raises IllegalCommand and changes nothing but STATUS, whose LASTOP shows
the word's bits [7:0]. The premise on LASTOP is part of `StatusInv`. -/
def Obligations.IllegalWordCompletesWithIllegalCommand : Prop :=
  ∀ (s : State) (rest : List Input), s.params.wellFormed = true → s.phase = .busy → s.inputs = .engine :: rest →
    s.status.lastop = s.pend.extractLsb' 0 8 → IllegalWord s.pend →
    ∃ t, step s = .next t ∧ FailedWith 6 s t ∧ SameButStatus (s.withInputs rest) t ∧
      t.statusWord.extractLsb' 16 8 = s.pend.extractLsb' 0 8

/-- R91 to R93: the decoder and the encoder agree on all 2^32 words: a word decodes to a command exactly when it is
that command's word, and every other word is rejected. -/
def Obligations.DecodeInvertsEncodeOnEveryWord : Prop :=
  (∀ (w : Word) (i : Instr), i.wellFormed = true → (decode w = .ok i ↔ w = encode i)) ∧
  ∀ w : Word, (∃ e, decode w = .error e) ↔ IllegalWord w

/-- R91: the words of the eleven commands, written out, and some illegal ones (95_test_vectors.md section 2.9). -/
def Obligations.OpcodeMapWordsDecode : Prop :=
  decode 0x00000001 = .ok .setSecret ∧ decode 0x00000002 = .ok .setAlgorithm ∧
  decode 0x00000003 = .ok .setPasswordLength ∧ decode 0x00000004 = .ok .setWindowSize ∧
  decode 0x00000005 = .ok .setInterval ∧ decode 0x00000010 = .ok .hotpGenerate ∧
  decode 0x00000011 = .ok .hotpVerify ∧ decode 0x00000020 = .ok .totpGenerate ∧
  decode 0x00000021 = .ok .totpVerify ∧ decode 0x00000022 = .ok .totpGenerateNow ∧
  decode 0x00000023 = .ok .totpVerifyNow ∧ decode 0x00000000 = .error .unlistedOpcode ∧
  decode 0x00000006 = .error .unlistedOpcode ∧ decode 0x00000012 = .error .unlistedOpcode ∧
  decode 0x000000FF = .error .unlistedOpcode ∧ decode 0x00000110 = .error .reservedBits ∧
  decode 0x80000001 = .error .reservedBits

/-! ### The setters (44_configuration.md) -/

/-- R241, with the error of R276: the command word, the committed length and every other register kept, or code 5 and nothing
but STATUS changed. -/
def Obligations.SetSecretCommitsTheLengthOrFails : Prop :=
  encode .setSecret = 0x00000001 ∧ ∀ s : State,
    (s.argLo.toNat ≤ s.params.maxKeyBytes →
      ∃ t, exec .setSecret s = .next t ∧ CompletedWith s.status.matched s t ∧
        SameButStatus { s with keyLen := s.argLo } t) ∧
    (s.params.maxKeyBytes < s.argLo.toNat →
      ∃ t, exec .setSecret s = .next t ∧ FailedWith 5 s t ∧ SameButStatus s t)

/-- R242, with the error of R275: the command word, the hash that each code selects and a read of ALG gives back, or code 4
and nothing but STATUS changed. -/
def Obligations.SetAlgorithmSelectsTheHashOrFails : Prop :=
  encode .setAlgorithm = 0x00000002 ∧ ∀ s : State,
    (s.argLo.toNat < 3 →
      ∃ t a, exec .setAlgorithm s = .next t ∧ CompletedWith s.status.matched s t ∧
        (s.argLo = 0 → a = .sha1) ∧ (s.argLo = 1 → a = .sha256) ∧ (s.argLo = 2 → a = .sha512) ∧ Alg.code a = s.argLo ∧
        SameButStatus { s with alg := a } t) ∧
    (3 ≤ s.argLo.toNat →
      ∃ t, exec .setAlgorithm s = .next t ∧ FailedWith 4 s t ∧ SameButStatus s t)

/-- R243, with the error of R272: the command word, the committed digit count, or code 1 and nothing but STATUS changed. -/
def Obligations.SetPasswordLengthCommitsTheDigitsOrFails : Prop :=
  encode .setPasswordLength = 0x00000003 ∧ ∀ s : State,
    (1 ≤ s.argLo.toInt ∧ s.argLo.toInt ≤ s.params.maxDigits →
      ∃ t, exec .setPasswordLength s = .next t ∧ CompletedWith s.status.matched s t ∧
        SameButStatus { s with digits := s.argLo } t) ∧
    (s.argLo.toInt < 1 ∨ (s.params.maxDigits : Int) < s.argLo.toInt →
      ∃ t, exec .setPasswordLength s = .next t ∧ FailedWith 1 s t ∧ SameButStatus s t)

/-- R244, with the error of R273: the command word, the committed window, or code 2 and nothing but STATUS changed. -/
def Obligations.SetWindowSizeCommitsTheWindowOrFails : Prop :=
  encode .setWindowSize = 0x00000004 ∧ ∀ s : State,
    (0 ≤ s.argLo.toInt →
      ∃ t, exec .setWindowSize s = .next t ∧ CompletedWith s.status.matched s t ∧
        SameButStatus { s with window := s.argLo } t) ∧
    (s.argLo.toInt < 0 →
      ∃ t, exec .setWindowSize s = .next t ∧ FailedWith 2 s t ∧ SameButStatus s t)

/-- R245, with the error of R274: the command word, the committed interval, or code 3 and nothing but STATUS changed. -/
def Obligations.SetIntervalCommitsTheIntervalOrFails : Prop :=
  encode .setInterval = 0x00000005 ∧ ∀ s : State,
    (0 < s.argLo.toInt →
      ∃ t, exec .setInterval s = .next t ∧ CompletedWith s.status.matched s t ∧
        SameButStatus { s with interval := s.argLo } t) ∧
    (s.argLo.toInt ≤ 0 →
      ∃ t, exec .setInterval s = .next t ∧ FailedWith 3 s t ∧ SameButStatus s t)

/-! ### Generating and verifying (40_hotp_core.md, 42_window_verifier.md, 43_totp_core.md) -/

/-- R119: the command word, and the results at the moving factor ARG64, as `GeneratedAt` says them. -/
def Obligations.HotpGenerateGivesThePassword : Prop :=
  encode .hotpGenerate = 0x00000010 ∧ ∀ s : State, ConfigInv s → s.mem.wf →
    ∃ t, exec .hotpGenerate s = .next t ∧ GeneratedAt (s.argHi ++ s.argLo) s t

/-- R213: the command word, and the results of `GeneratedAt`; the moving factor is floor(ARG64 / INTERVAL). -/
def Obligations.TotpGenerateGivesThePassword : Prop :=
  encode .totpGenerate = 0x00000020 ∧ ∀ s : State, ConfigInv s → s.mem.wf →
    ∃ t, exec .totpGenerate s = .next t ∧
      GeneratedAt (BitVec.ofNat 64 ((s.argHi.toNat * 2 ^ 32 + s.argLo.toNat) / s.interval.toNat)) s t

/-- R214: the command word, and the results of `GeneratedAt`; the moving factor is floor(NOW_LATCH / INTERVAL). -/
def Obligations.TotpGenerateNowGivesThePassword : Prop :=
  encode .totpGenerateNow = 0x00000022 ∧ ∀ s : State, ConfigInv s → s.mem.wf →
    ∃ t, exec .totpGenerateNow s = .next t ∧ GeneratedAt (BitVec.ofNat 64 (s.nowLatch.toNat / s.interval.toNat)) s t

/-- R186: the command word, and the results of `VerifiedAt` around the centre ARG64. -/
def Obligations.HotpVerifyScansTheWindow : Prop :=
  encode .hotpVerify = 0x00000011 ∧ ∀ s : State, ∃ t, exec .hotpVerify s = .next t ∧ VerifiedAt (s.argHi ++ s.argLo) s t

/-- R215: the command word, and the results of `VerifiedAt`; the centre is floor(ARG64 / INTERVAL). -/
def Obligations.TotpVerifyScansTheWindow : Prop :=
  encode .totpVerify = 0x00000021 ∧ ∀ s : State, ConfigInv s →
    ∃ t, exec .totpVerify s = .next t ∧
      VerifiedAt (BitVec.ofNat 64 ((s.argHi.toNat * 2 ^ 32 + s.argLo.toNat) / s.interval.toNat)) s t

/-- R216: the command word, and the results of `VerifiedAt`; the centre is floor(NOW_LATCH / INTERVAL). -/
def Obligations.TotpVerifyNowScansTheWindow : Prop :=
  encode .totpVerifyNow = 0x00000023 ∧ ∀ s : State, ConfigInv s →
    ∃ t, exec .totpVerifyNow s = .next t ∧ VerifiedAt (BitVec.ofNat 64 (s.nowLatch.toNat / s.interval.toNat)) s t

/-- R278: no generate and no verify raises an error. -/
def Obligations.GenerateAndVerifyRaiseNoError : Prop :=
  ∀ (s : State) (i : Instr), IsGenerate i ∨ IsVerify i →
    ∃ t, exec i s = .next t ∧ t.status.done = true ∧ t.status.err = s.status.err ∧ t.status.errcode = s.status.errcode

/-- R49: every result of a command is a function of the configuration, the operand and the candidate alone: two
states that agree on those, whatever CODE, RESULT, LAST_CTR, STATUS and the unused buffer bytes hold, give the same
configuration, code, password, counter and match, and from states without an error the same ERR and ERRCODE. DROPPED
and LASTOP are not compared: they tell of the bus and of the acceptance. -/
def Obligations.ResultsDependOnlyOnConfigurationOperandAndCandidate : Prop :=
  ∀ (s s' : State) (i : Instr), s.mem.wf → s'.mem.wf → SameInputs s s' →
    ∃ t t', exec i s = .next t ∧ exec i s' = .next t' ∧ SameConfig t t' ∧
      (IsGenerate i → t'.code = t.code ∧ t'.lastCtrLo = t.lastCtrLo ∧ t'.lastCtrHi = t.lastCtrHi ∧
        ∀ k, t'.bufByte .result k = t.bufByte .result k) ∧
      (IsVerify i → t'.status.matched = t.status.matched ∧ t'.lastCtrLo = t.lastCtrLo ∧ t'.lastCtrHi = t.lastCtrHi) ∧
      (s.status.err = false → s.status.errcode = 0 → s'.status.err = false → s'.status.errcode = 0 →
        t'.status.err = t.status.err ∧ t'.status.errcode = t.status.errcode)

/-- R187: the password that a generate leaves in RESULT, presented as the candidate at the same moving factor or time
under the same configuration, matches, for HOTP, TOTP and TOTP with the latched time. -/
def Obligations.VerifyAcceptsWhatGenerateProduced : Prop :=
  ∀ (s t u : State) (g v : Instr),
    (g, v) ∈ [(Instr.hotpGenerate, Instr.hotpVerify), (.totpGenerate, .totpVerify), (.totpGenerateNow, .totpVerifyNow)] →
    ConfigInv s → s.mem.wf → exec g s = .next t →
    SameConfig t u → (∀ i < s.keyLen.toNat, u.bufByte .key i = t.bufByte .key i) →
    u.argLo = s.argLo → u.argHi = s.argHi → u.nowLatch = s.nowLatch →
    u.candLen = s.digits → (∀ k < s.digits.toNat, u.bufByte .cand k = t.bufByte .result k) →
    ∃ z, exec v u = .next z ∧ z.status.matched = true

/-! ### Errors (60_exceptions.md) -/

/-- R282: errors are precise: the state after a failed command equals the state before it, except for STATUS and
PHASE, which is IDLE; STATUS shows the code of the cause, DONE and no match. -/
def Obligations.FailedCommandChangesOnlyStatus : Prop :=
  ∀ s t : State, s.status.err = false → completion s = .next t → t.status.err = true →
    t = { s with phase := .idle, status := t.status } ∧ t.status.done = true ∧ t.status.matched = false ∧
      ErrorCause s t.status.errcode.toNat ∧ t.status.dropped = s.status.dropped ∧ t.status.lastop = s.status.lastop

/-- R271: a completion reports error code c exactly when c's cause holds, and no other code; it reports none
exactly when no cause holds. -/
def Obligations.EachErrorCodeHasItsOneCause : Prop :=
  ∀ s : State, s.status.err = false → s.status.errcode = 0 →
    ∃ t, completion s = .next t ∧
      (∀ c : Nat, t.status.err = true ∧ t.status.errcode.toNat = c ↔ ErrorCause s c) ∧
      (t.status.err = false → t.status.errcode = 0)

/-! ### Whole-machine rules -/

/-- 10_state.md R23 to R34 and sections 7 and 9: between resets each configuration register changes only at the
completion of its own setter, CODE and RESULT only at that of a generate, LAST_CTR only at that of a generate or a
verify, and what the host alone writes only by a host write while IDLE; PEND changes only at an acceptance, NOW_LATCH
only at that of a _NOW word, PHASE at an acceptance or a completion, and STATUS beside these two only by a write that
is dropped while BUSY. That a step with no move to come is a completion is notes/assumptions/3.md. -/
def Obligations.EachRegisterIsWrittenOnlyByItsOwner : Prop :=
  ∀ s t : State, step s = .next t → (∀ rest, s.inputs ≠ .reset :: rest) →
    (t.keyLen ≠ s.keyLen → Completes s ∧ s.pend = 0x00000001) ∧
    (t.alg ≠ s.alg → Completes s ∧ s.pend = 0x00000002) ∧
    (t.digits ≠ s.digits → Completes s ∧ s.pend = 0x00000003) ∧
    (t.window ≠ s.window → Completes s ∧ s.pend = 0x00000004) ∧
    (t.interval ≠ s.interval → Completes s ∧ s.pend = 0x00000005) ∧
    (t.code ≠ s.code ∨ (∃ k, t.bufByte .result k ≠ s.bufByte .result k) →
      Completes s ∧ s.pend ∈ ([0x10, 0x20, 0x22] : List Word)) ∧
    (t.lastCtrLo ≠ s.lastCtrLo ∨ t.lastCtrHi ≠ s.lastCtrHi →
      Completes s ∧ s.pend ∈ ([0x10, 0x11, 0x20, 0x21, 0x22, 0x23] : List Word)) ∧
    (t.argLo ≠ s.argLo ∨ t.argHi ≠ s.argHi ∨ t.candLen ≠ s.candLen ∨
        (∃ k, k < s.params.maxKeyBytes ∧ t.mem.read (0x100 + k) ≠ s.mem.read (0x100 + k)) ∨
        (∃ k, k < s.params.maxDigits ∧ t.mem.read (0x200 + k) ≠ s.mem.read (0x200 + k)) →
      s.phase = .idle ∧ ∃ o v, HostWrites o v s) ∧
    (t.pend ≠ s.pend → Accepts t.pend s) ∧
    (t.nowLatch ≠ s.nowLatch → Accepts 0x00000022 s ∨ Accepts 0x00000023 s) ∧
    (t.phase ≠ s.phase → (∃ w, Accepts w s) ∨ Completes s) ∧
    (t.status ≠ s.status → (∃ w, Accepts w s) ∨ Completes s ∨
      s.phase = .busy ∧ (∃ o v, HostWrites o v s) ∧ t.status = { s.status with dropped := true })

/-- R310 with R309, and R307: an accepted command completes whatever finite number of host accesses come first, and the
block is then IDLE and DONE. Until the completion nothing of the block but DROPPED has changed since the acceptance:
CODE, RESULT and LAST_CTR are those of before the command, and MATCH is as the acceptance left it, which is 0 by R38
and R98 (R307 taken literally disagrees with these two on MATCH: notes/assumptions/17.md). -/
def Obligations.AcceptedCommandCompletesAfterAnyHostAccesses : Prop :=
  ∀ (s : State) (as : List Input), s.params.wellFormed = true → s.phase = .busy → (∀ m ∈ as, GoodAccess s.params m) →
    ∃ u t, Host.Core.run Sys2Proof.core as.length (s.withInputs as) = .next u ∧
      u = { s with inputs := [], reply := u.reply, status := { s.status with dropped := u.status.dropped } } ∧
      Host.Core.run Sys2Proof.core (as.length + 1) (s.withInputs as) = .next t ∧
      t.phase = .idle ∧ t.status.done = true

/-- R71 with R69 and R74: evaluating a command at its completion, after any host accesses while BUSY, agrees with
evaluating it on the state at acceptance: the two end states differ in DROPPED and the bus reply alone. The
last step completes because with no move to come the engine moves, the model's choice (notes/assumptions/3.md). -/
def Obligations.SnapshotAtAcceptanceAgreesWithCompletion : Prop :=
  ∀ (s : State) (as : List Input), s.params.wellFormed = true → s.phase = .busy → (∀ m ∈ as, GoodAccess s.params m) →
    ∃ t u, Host.Core.run Sys2Proof.core (as.length + 1) (s.withInputs as) = .next t ∧
      completion (s.withInputs []) = .next u ∧
      t = { u with reply := t.reply, status := { u.status with dropped := t.status.dropped } }

/-- R70, as in the program P5 of 95_test_vectors.md but for every command in flight: a write of ARG_LO and the completion in
either order. Written first, the word is dropped; written last, it is stored; nothing else differs. -/
def Obligations.ArgWriteAndCompletionMayComeInEitherOrder : Prop :=
  ∀ (s : State) (v : Word) (now : DWord), s.params.wellFormed = true → s.phase = .busy →
    let w := Input.access (wordAccess s.params 0x008 (.write v)) now
    ∃ t t', Host.Core.run Sys2Proof.core 2 (s.withInputs [w, .engine]) = .next t ∧
      Host.Core.run Sys2Proof.core 2 (s.withInputs [.engine, w]) = .next t' ∧
      t.argLo = s.argLo ∧ t.status.dropped = true ∧ t'.argLo = v ∧ t'.status.dropped = s.status.dropped ∧
      t = { t' with argLo := s.argLo, status := { t'.status with dropped := true } }

/-- The invariant of every step: the configuration invariants (10_state.md R50), the STATUS invariants (R36 to R41), the
canonical form of memory and storage alone in it (20_memory.md R67), CODE below 2^31 and RESULT of digits
(10_state.md R32, R33). -/
def Obligations.EveryStepKeepsTheInvariant : Prop :=
  ∀ s t : State, MachineInv s → step s = .next t → MachineInv t

/-- The state after reset meets the invariant. -/
def Obligations.ResetStateMeetsTheInvariant : Prop := MachineInv State.reset

/-! ### The datapath (40_hotp_core.md, 42_window_verifier.md, 43_totp_core.md) -/

/-- R110: eight bytes, byte k the bits f[63-8k : 56-8k], all 64 bits encoded. -/
def Obligations.MovingFactorIsEncodedInEightBytes : Prop :=
  (∀ f : DWord, (enc64 f).length = 8 ∧ ∀ k < 8, (enc64 f).getD k 0 = f.extractLsb' (56 - 8 * k) 8) ∧
  ∀ f g : DWord, enc64 f = enc64 g → f = g

/-- R111: the hash, the digest length L and the block size B of each algorithm; every digest has L bytes. What the three
hashes compute is stated in the section on 41_hash_functions.md below. -/
def Obligations.DigestsHaveTheirLength : Prop :=
  (∀ m, Alg.sha1.hash m = sha1Hash m) ∧ (∀ m, Alg.sha256.hash m = sha256Hash m) ∧
  (∀ m, Alg.sha512.hash m = sha512Hash m) ∧
  (∀ m, (Alg.sha1.hash m).length = 20) ∧ (∀ m, (Alg.sha256.hash m).length = 32) ∧
  (∀ m, (Alg.sha512.hash m).length = 64) ∧
  Alg.sha1.digestLen = 20 ∧ Alg.sha256.digestLen = 32 ∧ Alg.sha512.digestLen = 64 ∧
  Alg.sha1.blockLen = 64 ∧ Alg.sha256.blockLen = 64 ∧ Alg.sha512.blockLen = 128 ∧
  Alg.sha1.code = 0 ∧ Alg.sha256.code = 1 ∧ Alg.sha512.code = 2

/-- R112: HMAC, with K0 of exactly B bytes, the pads being bytewise exclusive-ors with 0x36^B and 0x5C^B. -/
def Obligations.HmacIsTheKeyedHash : Prop :=
  ∀ (alg : Alg) (key msg : List Byte), ∃ k0 : List Byte,
    (alg.blockLen < key.length → k0 = alg.hash key ++ List.replicate (alg.blockLen - alg.digestLen) 0) ∧
    (key.length ≤ alg.blockLen → k0 = key ++ List.replicate (alg.blockLen - key.length) 0) ∧
    k0.length = alg.blockLen ∧
    hmac alg key msg =
      alg.hash (List.zipWith (· ^^^ ·) k0 (List.replicate alg.blockLen 0x5C) ++
        alg.hash (List.zipWith (· ^^^ ·) k0 (List.replicate alg.blockLen 0x36) ++ msg)) ∧
    (hmac alg key msg).length = alg.digestLen

/-- R113 and R114: the offset is in 0 to 15 and the truncated number is the 31-bit number of the four bytes there, the first
masked with 0x7F. -/
def Obligations.TruncationGivesA31BitNumber : Prop :=
  ∀ d : List Byte, truncOffset d = (d.getD (d.length - 1) 0).toNat % 16 ∧
    dynTrunc d = ((d.getD (truncOffset d) 0).toNat % 128) * 2 ^ 24 + (d.getD (truncOffset d + 1) 0).toNat * 2 ^ 16 +
      (d.getD (truncOffset d + 2) 0).toNat * 2 ^ 8 + (d.getD (truncOffset d + 3) 0).toNat ∧
    dynTrunc d < 2 ^ 31

/-- R115: the truncation never reads past the digest. -/
def Obligations.TruncationStaysInsideTheDigest : Prop :=
  ∀ (alg : Alg) (key msg : List Byte), truncOffset (hmac alg key msg) + 4 ≤ (hmac alg key msg).length

/-- R117: exactly n ASCII decimal digits, most significant first, and no digit lost for c < 10^n: the digits read in
decimal give c back. -/
def Obligations.RenderWritesTheDecimalDigits : Prop :=
  ∀ c n : Nat, (render c n).length = n ∧
    (∀ k < n, ((render c n).getD k 0).toNat = 0x30 + c / 10 ^ (n - 1 - k) % 10) ∧
    (∀ b ∈ render c n, 0x30 ≤ b.toNat ∧ b.toNat ≤ 0x39) ∧
    (c < 10 ^ n → (render c n).foldl (fun a b => a * 10 + (b.toNat - 0x30)) 0 = c)

/-- R183: F(c, w) is exactly the factors c + o with -w ≤ o ≤ w that are 64-bit counters, and it contains c. -/
def Obligations.WindowIsTheFactorsInRange : Prop :=
  ∀ (c : DWord) (w : Nat),
    (∀ f : DWord, f ∈ windowFactors c w ↔
      ∃ o : Int, -(w : Int) ≤ o ∧ o ≤ (w : Int) ∧ (f.toNat : Int) = (c.toNat : Int) + o) ∧
    c ∈ windowFactors c w

/-- R189: clamping the factors into [0, 2^64-1] instead of skipping them accepts the same candidates. -/
def Obligations.ClampingAcceptsTheSameCandidates : Prop :=
  ∀ (alg : Alg) (key : List Byte) (n : Nat) (cand : Candidate) (c : DWord) (w : Nat),
    windowVerify alg key n cand c w = true ↔
      ∃ o : Int, -(w : Int) ≤ o ∧ o ≤ (w : Int) ∧
        candidateEq cand n (hotp alg key (BitVec.ofInt 64 (max 0 (min ((c.toNat : Int) + o) (2 ^ 64 - 1)))) n) = true

/-- R217: scanning by counter step accepts the same candidates as scanning second by second over [t - w·i, t + w·i]. -/
def Obligations.ScanningBySecondsAcceptsTheSameCandidates : Prop :=
  ∀ (alg : Alg) (key : List Byte) (n : Nat) (cand : Candidate) (t : DWord) (i : Word) (w : Nat), i ≠ 0 →
    (windowVerify alg key n cand (counterOf t i) w = true ↔
      ∃ (t' : Int) (f : DWord), (t.toNat : Int) - w * i.toNat ≤ t' ∧ t' ≤ (t.toNat : Int) + w * i.toNat ∧
        (f.toNat : Int) = t' / (i.toNat : Int) ∧ candidateEq cand n (hotp alg key f n) = true)

/-- R218: the password generated for time t' is accepted at every time t whose counter is at most w steps away. -/
def Obligations.PasswordIsAcceptedWithinTheTolerance : Prop :=
  ∀ (alg : Alg) (key : List Byte) (n : Nat) (cand : Candidate) (t t' : DWord) (i : Word) (w : Nat), i ≠ 0 →
    cand.len = n → (∀ k < n, cand.bytes.getD k 0 = (hotp alg key (counterOf t' i) n).getD k 0) →
    t'.toNat / i.toNat ≤ t.toNat / i.toNat + w → t.toNat / i.toNat ≤ t'.toNat / i.toNat + w →
    windowVerify alg key n cand (counterOf t i) w = true

/-! ### The hash functions (41_hash_functions.md) -/

/-- R141 and R142: 0x80, the smallest number of zero bytes, and the bit length in 8 or 16 bytes, big-endian; the
blocks are whole, and put together they are the padded message. -/
def Obligations.PaddingFillsWholeBlocks : Prop :=
  ∀ m : List Byte,
    (∃ p, padMessage 64 8 m = m ++ [0x80] ++ List.replicate p 0 ++
        (List.range 8).map (fun k => BitVec.ofNat 8 (8 * m.length / 256 ^ (7 - k))) ∧
      (m.length + 1 + p) % 64 = 56 ∧ (∀ q < p, (m.length + 1 + q) % 64 ≠ 56) ∧
      (blocksOf 64 (padMessage 64 8 m)).length * 64 = m.length + 9 + p ∧
      (∀ b ∈ blocksOf 64 (padMessage 64 8 m), b.length = 64) ∧
      (blocksOf 64 (padMessage 64 8 m)).flatten = padMessage 64 8 m) ∧
    (∃ p, padMessage 128 16 m = m ++ [0x80] ++ List.replicate p 0 ++
        (List.range 16).map (fun k => BitVec.ofNat 8 (8 * m.length / 256 ^ (15 - k))) ∧
      (m.length + 1 + p) % 128 = 112 ∧ (∀ q < p, (m.length + 1 + q) % 128 ≠ 112) ∧
      (blocksOf 128 (padMessage 128 16 m)).length * 128 = m.length + 17 + p ∧
      (∀ b ∈ blocksOf 128 (padMessage 128 16 m), b.length = 128) ∧
      (blocksOf 128 (padMessage 128 16 m)).flatten = padMessage 128 16 m)

/-- R146: the SHA-1 message schedule, by its recurrence. -/
def Obligations.Sha1ScheduleFollowsItsRecurrence : Prop :=
  ∀ m : List Word, m.length = 16 →
    let W := fun t => (sha1Schedule m).getD t 0
    (sha1Schedule m).length = 80 ∧ (∀ t < 16, W t = m.getD t 0) ∧
    ∀ t, 16 ≤ t → t < 80 → W t = (W (t - 3) ^^^ W (t - 8) ^^^ W (t - 14) ^^^ W (t - 16)).rotateLeft 1

/-- R153 and R159 with the σ functions of R152 and R158: the SHA-256 and SHA-512 message schedules, by their recurrences. -/
def Obligations.Sha2SchedulesFollowTheirRecurrences : Prop :=
  (∀ m : List Word, m.length = 16 →
    let W := fun t => (sha2Schedule sha256Variant m).getD t 0
    let s0 := fun x : Word => x.rotateRight 7 ^^^ x.rotateRight 18 ^^^ (x >>> 3)
    let s1 := fun x : Word => x.rotateRight 17 ^^^ x.rotateRight 19 ^^^ (x >>> 10)
    (sha2Schedule sha256Variant m).length = 64 ∧ (∀ t < 16, W t = m.getD t 0) ∧
    ∀ t, 16 ≤ t → t < 64 → W t = s1 (W (t - 2)) + W (t - 7) + s0 (W (t - 15)) + W (t - 16)) ∧
  (∀ m : List DWord, m.length = 16 →
    let W := fun t => (sha2Schedule sha512Variant m).getD t 0
    let s0 := fun x : DWord => x.rotateRight 1 ^^^ x.rotateRight 8 ^^^ (x >>> 7)
    let s1 := fun x : DWord => x.rotateRight 19 ^^^ x.rotateRight 61 ^^^ (x >>> 6)
    (sha2Schedule sha512Variant m).length = 80 ∧ (∀ t < 16, W t = m.getD t 0) ∧
    ∀ t, 16 ≤ t → t < 80 → W t = s1 (W (t - 2)) + W (t - 7) + s0 (W (t - 15)) + W (t - 16))

/-- R144, R145 and R147: the SHA-1 compression of a block is the eighty rounds, each by its own t, and the final additions;
the hash starts from the initial value, takes the blocks in order and gives the bytes of the words. -/
def Obligations.Sha1BlockIsItsEightyRounds : Prop :=
  (∀ (h : Sha1Value) (block : List Byte),
    let W := fun t => (sha1Schedule (blockWords 32 4 block)).getD t 0
    let f := fun (t : Nat) (b c d : Word) =>
      if t < 20 then (b &&& c) ^^^ (~~~b &&& d)
      else if 40 ≤ t ∧ t < 60 then (b &&& c) ^^^ (b &&& d) ^^^ (c &&& d) else b ^^^ c ^^^ d
    let K := fun t : Nat =>
      (if t < 20 then 0x5a827999 else if t < 40 then 0x6ed9eba1 else if t < 60 then 0x8f1bbcdc else 0xca62c1d6 : Word)
    let r := (List.range 80).foldl (fun (v : Sha1Value) t =>
      { a := v.a.rotateLeft 5 + f t v.b v.c v.d + v.e + K t + W t, b := v.a, c := v.b.rotateLeft 30, d := v.c,
        e := v.d }) h
    sha1Block h block = { a := h.a + r.a, b := h.b + r.b, c := h.c + r.c, d := h.d + r.d, e := h.e + r.e }) ∧
  ∀ m : List Byte,
    let v := (blocksOf 64 (padMessage 64 8 m)).foldl sha1Block
      { a := 0x67452301, b := 0xefcdab89, c := 0x98badcfe, d := 0x10325476, e := 0xc3d2e1f0 }
    sha1Hash m = [v.a, v.b, v.c, v.d, v.e].flatMap fun x => [x.extractLsb' 24 8, x.extractLsb' 16 8, x.extractLsb' 8 8,
      x.extractLsb' 0 8]

/-- R154 with the functions of R152, and R160 with those of R158: the compression of a block is the sixty-four rounds of
SHA-256, or the eighty of SHA-512, each by its own t, and the final additions; each hash starts from its initial value,
takes the blocks in order and gives the bytes of the words. -/
def Obligations.Sha2BlocksAreTheirRounds : Prop :=
  (∀ (h : Sha2Value 32) (block : List Byte),
    let W := fun t => (sha2Schedule sha256Variant (blockWords 32 4 block)).getD t 0
    let S0 := fun x : Word => x.rotateRight 2 ^^^ x.rotateRight 13 ^^^ x.rotateRight 22
    let S1 := fun x : Word => x.rotateRight 6 ^^^ x.rotateRight 11 ^^^ x.rotateRight 25
    let T1 := fun (v : Sha2Value 32) t =>
      v.h + S1 v.e + ((v.e &&& v.f) ^^^ (~~~v.e &&& v.g)) + sha256K.getD t 0 + W t
    let T2 := fun v : Sha2Value 32 => S0 v.a + ((v.a &&& v.b) ^^^ (v.a &&& v.c) ^^^ (v.b &&& v.c))
    let r := (List.range 64).foldl (fun (v : Sha2Value 32) t =>
      { a := T1 v t + T2 v, b := v.a, c := v.b, d := v.c, e := v.d + T1 v t, f := v.e, g := v.f, h := v.g }) h
    sha2Block sha256Variant 4 h block =
      { a := h.a + r.a, b := h.b + r.b, c := h.c + r.c, d := h.d + r.d,
        e := h.e + r.e, f := h.f + r.f, g := h.g + r.g, h := h.h + r.h }) ∧
  (∀ (h : Sha2Value 64) (block : List Byte),
    let W := fun t => (sha2Schedule sha512Variant (blockWords 64 8 block)).getD t 0
    let S0 := fun x : DWord => x.rotateRight 28 ^^^ x.rotateRight 34 ^^^ x.rotateRight 39
    let S1 := fun x : DWord => x.rotateRight 14 ^^^ x.rotateRight 18 ^^^ x.rotateRight 41
    let T1 := fun (v : Sha2Value 64) t =>
      v.h + S1 v.e + ((v.e &&& v.f) ^^^ (~~~v.e &&& v.g)) + sha512K.getD t 0 + W t
    let T2 := fun v : Sha2Value 64 => S0 v.a + ((v.a &&& v.b) ^^^ (v.a &&& v.c) ^^^ (v.b &&& v.c))
    let r := (List.range 80).foldl (fun (v : Sha2Value 64) t =>
      { a := T1 v t + T2 v, b := v.a, c := v.b, d := v.c, e := v.d + T1 v t, f := v.e, g := v.f, h := v.g }) h
    sha2Block sha512Variant 8 h block =
      { a := h.a + r.a, b := h.b + r.b, c := h.c + r.c, d := h.d + r.d,
        e := h.e + r.e, f := h.f + r.f, g := h.g + r.g, h := h.h + r.h }) ∧
  (∀ m : List Byte,
    let v := (blocksOf 64 (padMessage 64 8 m)).foldl (sha2Block sha256Variant 4) sha256Init
    sha256Hash m = [v.a, v.b, v.c, v.d, v.e, v.f, v.g, v.h].flatMap fun x =>
      (List.range 4).map fun k => x.extractLsb' (24 - 8 * k) 8) ∧
  ∀ m : List Byte,
    let v := (blocksOf 128 (padMessage 128 16 m)).foldl (sha2Block sha512Variant 8) sha512Init
    sha512Hash m = [v.a, v.b, v.c, v.d, v.e, v.f, v.g, v.h].flatMap fun x =>
      (List.range 8).map fun k => x.extractLsb' (56 - 8 * k) 8

/-- R149: the primes are the first eighty, and the constants of R150, R151, R156 and R157 are the low bits of their
integer square and cube roots, rounded down. -/
def Obligations.Sha2ConstantsAreRootsOfThePrimes : Prop :=
  primes.length = 80 ∧ primes.Pairwise (· < ·) ∧ (∀ p, p ∈ primes ↔ Nat.Prime p ∧ p < 410) ∧
  (∀ j < 8, ∃ r : Nat, r ^ 2 ≤ primes.getD j 0 * 2 ^ 64 ∧ primes.getD j 0 * 2 ^ 64 < (r + 1) ^ 2 ∧
    [sha256Init.a, sha256Init.b, sha256Init.c, sha256Init.d, sha256Init.e, sha256Init.f, sha256Init.g,
      sha256Init.h].getD j 0 = BitVec.ofNat 32 r) ∧
  (∀ t < 64, ∃ r : Nat, r ^ 3 ≤ primes.getD t 0 * 2 ^ 96 ∧ primes.getD t 0 * 2 ^ 96 < (r + 1) ^ 3 ∧
    sha256K.getD t 0 = BitVec.ofNat 32 r) ∧
  (∀ j < 8, ∃ r : Nat, r ^ 2 ≤ primes.getD j 0 * 2 ^ 128 ∧ primes.getD j 0 * 2 ^ 128 < (r + 1) ^ 2 ∧
    [sha512Init.a, sha512Init.b, sha512Init.c, sha512Init.d, sha512Init.e, sha512Init.f, sha512Init.g,
      sha512Init.h].getD j 0 = BitVec.ofNat 64 r) ∧
  (∀ t < 80, ∃ r : Nat, r ^ 3 ≤ primes.getD t 0 * 2 ^ 192 ∧ primes.getD t 0 * 2 ^ 192 < (r + 1) ^ 3 ∧
    sha512K.getD t 0 = BitVec.ofNat 64 r)

/-- R143: word t of a block of sixteen words is the bytes t*w/8 to (t+1)*w/8 of the block, first byte most significant, and
the words of a hash value are given out in order in the same byte order. -/
def Obligations.WordsAreBigEndianInBlocksAndDigests : Prop :=
  (∀ block : List Byte, block.length = 64 → (blockWords 32 4 block).length = 16 ∧
    ∀ t < 16, ∀ j < 4, ((blockWords 32 4 block).getD t 0).extractLsb' (24 - 8 * j) 8 = block.getD (4 * t + j) 0) ∧
  (∀ block : List Byte, block.length = 128 → (blockWords 64 8 block).length = 16 ∧
    ∀ t < 16, ∀ j < 8, ((blockWords 64 8 block).getD t 0).extractLsb' (56 - 8 * j) 8 = block.getD (8 * t + j) 0) ∧
  (∀ (h : Sha1Value), h.bytes.length = 20 ∧
    ∀ i < 5, ∀ j < 4, h.bytes.getD (4 * i + j) 0 = ([h.a, h.b, h.c, h.d, h.e].getD i 0).extractLsb' (24 - 8 * j) 8) ∧
  (∀ (h : Sha2Value 32), (h.bytes 4).length = 32 ∧
    ∀ i < 8, ∀ j < 4, (h.bytes 4).getD (4 * i + j) 0 =
      ([h.a, h.b, h.c, h.d, h.e, h.f, h.g, h.h].getD i 0).extractLsb' (24 - 8 * j) 8) ∧
  ∀ (h : Sha2Value 64), (h.bytes 8).length = 64 ∧
    ∀ i < 8, ∀ j < 8, (h.bytes 8).getD (8 * i + j) 0 =
      ([h.a, h.b, h.c, h.d, h.e, h.f, h.g, h.h].getD i 0).extractLsb' (56 - 8 * j) 8

/-! ### The model's own fields at reset -/

/-- The model's choice, and no rule of the block: a reset keeps the moves that the other agents still have to make
(notes/assumptions/15.md) and leaves no bus reply (notes/assumptions/5.md). -/
def Obligations.ResetKeepsTheMovesStillToCome : Prop :=
  ∀ (s : State) (rest : List Input), s.params.wellFormed = true → s.inputs = .reset :: rest →
    ∃ t, step s = .next t ∧ t.inputs = rest ∧ t.reply = .none
end

