-- ==== Sys2Proof/Laws/State.lean ====
section
/-! SUPPORT. One lemma per field per named update of State, so that no later proof unfolds an update. -/

namespace Sys2Proof.Machine

@[simp] theorem withInputs_params (l : List Input) (s : State) : (s.withInputs l).params = s.params := (rfl)
@[simp] theorem withInputs_alg (l : List Input) (s : State) : (s.withInputs l).alg = s.alg := (rfl)
@[simp] theorem withInputs_digits (l : List Input) (s : State) : (s.withInputs l).digits = s.digits := (rfl)
@[simp] theorem withInputs_window (l : List Input) (s : State) : (s.withInputs l).window = s.window := (rfl)
@[simp] theorem withInputs_interval (l : List Input) (s : State) : (s.withInputs l).interval = s.interval := (rfl)
@[simp] theorem withInputs_keyLen (l : List Input) (s : State) : (s.withInputs l).keyLen = s.keyLen := (rfl)
@[simp] theorem withInputs_argLo (l : List Input) (s : State) : (s.withInputs l).argLo = s.argLo := (rfl)
@[simp] theorem withInputs_argHi (l : List Input) (s : State) : (s.withInputs l).argHi = s.argHi := (rfl)
@[simp] theorem withInputs_candLen (l : List Input) (s : State) : (s.withInputs l).candLen = s.candLen := (rfl)
@[simp] theorem withInputs_code (l : List Input) (s : State) : (s.withInputs l).code = s.code := (rfl)
@[simp] theorem withInputs_lastCtrLo (l : List Input) (s : State) : (s.withInputs l).lastCtrLo = s.lastCtrLo := (rfl)
@[simp] theorem withInputs_lastCtrHi (l : List Input) (s : State) : (s.withInputs l).lastCtrHi = s.lastCtrHi := (rfl)
@[simp] theorem withInputs_mem (l : List Input) (s : State) : (s.withInputs l).mem = s.mem := (rfl)
@[simp] theorem withInputs_status (l : List Input) (s : State) : (s.withInputs l).status = s.status := (rfl)
@[simp] theorem withInputs_phase (l : List Input) (s : State) : (s.withInputs l).phase = s.phase := (rfl)
@[simp] theorem withInputs_pend (l : List Input) (s : State) : (s.withInputs l).pend = s.pend := (rfl)
@[simp] theorem withInputs_nowLatch (l : List Input) (s : State) : (s.withInputs l).nowLatch = s.nowLatch := (rfl)
@[simp] theorem withInputs_inputs (l : List Input) (s : State) : (s.withInputs l).inputs = l := (rfl)
@[simp] theorem withInputs_reply (l : List Input) (s : State) : (s.withInputs l).reply = s.reply := (rfl)

@[simp] theorem withReply_params (r : Reply) (s : State) : (s.withReply r).params = s.params := (rfl)
@[simp] theorem withReply_alg (r : Reply) (s : State) : (s.withReply r).alg = s.alg := (rfl)
@[simp] theorem withReply_digits (r : Reply) (s : State) : (s.withReply r).digits = s.digits := (rfl)
@[simp] theorem withReply_window (r : Reply) (s : State) : (s.withReply r).window = s.window := (rfl)
@[simp] theorem withReply_interval (r : Reply) (s : State) : (s.withReply r).interval = s.interval := (rfl)
@[simp] theorem withReply_keyLen (r : Reply) (s : State) : (s.withReply r).keyLen = s.keyLen := (rfl)
@[simp] theorem withReply_argLo (r : Reply) (s : State) : (s.withReply r).argLo = s.argLo := (rfl)
@[simp] theorem withReply_argHi (r : Reply) (s : State) : (s.withReply r).argHi = s.argHi := (rfl)
@[simp] theorem withReply_candLen (r : Reply) (s : State) : (s.withReply r).candLen = s.candLen := (rfl)
@[simp] theorem withReply_code (r : Reply) (s : State) : (s.withReply r).code = s.code := (rfl)
@[simp] theorem withReply_lastCtrLo (r : Reply) (s : State) : (s.withReply r).lastCtrLo = s.lastCtrLo := (rfl)
@[simp] theorem withReply_lastCtrHi (r : Reply) (s : State) : (s.withReply r).lastCtrHi = s.lastCtrHi := (rfl)
@[simp] theorem withReply_mem (r : Reply) (s : State) : (s.withReply r).mem = s.mem := (rfl)
@[simp] theorem withReply_status (r : Reply) (s : State) : (s.withReply r).status = s.status := (rfl)
@[simp] theorem withReply_phase (r : Reply) (s : State) : (s.withReply r).phase = s.phase := (rfl)
@[simp] theorem withReply_pend (r : Reply) (s : State) : (s.withReply r).pend = s.pend := (rfl)
@[simp] theorem withReply_nowLatch (r : Reply) (s : State) : (s.withReply r).nowLatch = s.nowLatch := (rfl)
@[simp] theorem withReply_inputs (r : Reply) (s : State) : (s.withReply r).inputs = s.inputs := (rfl)
@[simp] theorem withReply_reply (r : Reply) (s : State) : (s.withReply r).reply = r := (rfl)

@[simp] theorem finish_params (s : State) : s.finish.params = s.params := (rfl)
@[simp] theorem finish_alg (s : State) : s.finish.alg = s.alg := (rfl)
@[simp] theorem finish_digits (s : State) : s.finish.digits = s.digits := (rfl)
@[simp] theorem finish_window (s : State) : s.finish.window = s.window := (rfl)
@[simp] theorem finish_interval (s : State) : s.finish.interval = s.interval := (rfl)
@[simp] theorem finish_keyLen (s : State) : s.finish.keyLen = s.keyLen := (rfl)
@[simp] theorem finish_argLo (s : State) : s.finish.argLo = s.argLo := (rfl)
@[simp] theorem finish_argHi (s : State) : s.finish.argHi = s.argHi := (rfl)
@[simp] theorem finish_candLen (s : State) : s.finish.candLen = s.candLen := (rfl)
@[simp] theorem finish_code (s : State) : s.finish.code = s.code := (rfl)
@[simp] theorem finish_lastCtrLo (s : State) : s.finish.lastCtrLo = s.lastCtrLo := (rfl)
@[simp] theorem finish_lastCtrHi (s : State) : s.finish.lastCtrHi = s.lastCtrHi := (rfl)
@[simp] theorem finish_mem (s : State) : s.finish.mem = s.mem := (rfl)
@[simp] theorem finish_status (s : State) : s.finish.status = s.status.completed := (rfl)
@[simp] theorem finish_phase (s : State) : s.finish.phase = .idle := (rfl)
@[simp] theorem finish_pend (s : State) : s.finish.pend = s.pend := (rfl)
@[simp] theorem finish_nowLatch (s : State) : s.finish.nowLatch = s.nowLatch := (rfl)
@[simp] theorem finish_inputs (s : State) : s.finish.inputs = s.inputs := (rfl)
@[simp] theorem finish_reply (s : State) : s.finish.reply = s.reply := (rfl)

@[simp] theorem raiseError_params (e : ErrorKind) (s : State) : (s.raiseError e).params = s.params := (rfl)
@[simp] theorem raiseError_alg (e : ErrorKind) (s : State) : (s.raiseError e).alg = s.alg := (rfl)
@[simp] theorem raiseError_digits (e : ErrorKind) (s : State) : (s.raiseError e).digits = s.digits := (rfl)
@[simp] theorem raiseError_window (e : ErrorKind) (s : State) : (s.raiseError e).window = s.window := (rfl)
@[simp] theorem raiseError_interval (e : ErrorKind) (s : State) : (s.raiseError e).interval = s.interval := (rfl)
@[simp] theorem raiseError_keyLen (e : ErrorKind) (s : State) : (s.raiseError e).keyLen = s.keyLen := (rfl)
@[simp] theorem raiseError_argLo (e : ErrorKind) (s : State) : (s.raiseError e).argLo = s.argLo := (rfl)
@[simp] theorem raiseError_argHi (e : ErrorKind) (s : State) : (s.raiseError e).argHi = s.argHi := (rfl)
@[simp] theorem raiseError_candLen (e : ErrorKind) (s : State) : (s.raiseError e).candLen = s.candLen := (rfl)
@[simp] theorem raiseError_code (e : ErrorKind) (s : State) : (s.raiseError e).code = s.code := (rfl)
@[simp] theorem raiseError_lastCtrLo (e : ErrorKind) (s : State) : (s.raiseError e).lastCtrLo = s.lastCtrLo := (rfl)
@[simp] theorem raiseError_lastCtrHi (e : ErrorKind) (s : State) : (s.raiseError e).lastCtrHi = s.lastCtrHi := (rfl)
@[simp] theorem raiseError_mem (e : ErrorKind) (s : State) : (s.raiseError e).mem = s.mem := (rfl)
@[simp] theorem raiseError_status (e : ErrorKind) (s : State) :
    (s.raiseError e).status = (s.status.raised e).completed := (rfl)
@[simp] theorem raiseError_phase (e : ErrorKind) (s : State) : (s.raiseError e).phase = .idle := (rfl)
@[simp] theorem raiseError_pend (e : ErrorKind) (s : State) : (s.raiseError e).pend = s.pend := (rfl)
@[simp] theorem raiseError_nowLatch (e : ErrorKind) (s : State) : (s.raiseError e).nowLatch = s.nowLatch := (rfl)
@[simp] theorem raiseError_inputs (e : ErrorKind) (s : State) : (s.raiseError e).inputs = s.inputs := (rfl)
@[simp] theorem raiseError_reply (e : ErrorKind) (s : State) : (s.raiseError e).reply = s.reply := (rfl)

@[simp] theorem setLastCtr_params (f : DWord) (s : State) : (s.setLastCtr f).params = s.params := (rfl)
@[simp] theorem setLastCtr_alg (f : DWord) (s : State) : (s.setLastCtr f).alg = s.alg := (rfl)
@[simp] theorem setLastCtr_digits (f : DWord) (s : State) : (s.setLastCtr f).digits = s.digits := (rfl)
@[simp] theorem setLastCtr_window (f : DWord) (s : State) : (s.setLastCtr f).window = s.window := (rfl)
@[simp] theorem setLastCtr_interval (f : DWord) (s : State) : (s.setLastCtr f).interval = s.interval := (rfl)
@[simp] theorem setLastCtr_keyLen (f : DWord) (s : State) : (s.setLastCtr f).keyLen = s.keyLen := (rfl)
@[simp] theorem setLastCtr_argLo (f : DWord) (s : State) : (s.setLastCtr f).argLo = s.argLo := (rfl)
@[simp] theorem setLastCtr_argHi (f : DWord) (s : State) : (s.setLastCtr f).argHi = s.argHi := (rfl)
@[simp] theorem setLastCtr_candLen (f : DWord) (s : State) : (s.setLastCtr f).candLen = s.candLen := (rfl)
@[simp] theorem setLastCtr_code (f : DWord) (s : State) : (s.setLastCtr f).code = s.code := (rfl)
@[simp] theorem setLastCtr_lastCtrLo (f : DWord) (s : State) : (s.setLastCtr f).lastCtrLo = f.extractLsb' 0 32 := (rfl)
@[simp] theorem setLastCtr_lastCtrHi (f : DWord) (s : State) : (s.setLastCtr f).lastCtrHi = f.extractLsb' 32 32 := (rfl)
@[simp] theorem setLastCtr_mem (f : DWord) (s : State) : (s.setLastCtr f).mem = s.mem := (rfl)
@[simp] theorem setLastCtr_status (f : DWord) (s : State) : (s.setLastCtr f).status = s.status := (rfl)
@[simp] theorem setLastCtr_phase (f : DWord) (s : State) : (s.setLastCtr f).phase = s.phase := (rfl)
@[simp] theorem setLastCtr_pend (f : DWord) (s : State) : (s.setLastCtr f).pend = s.pend := (rfl)
@[simp] theorem setLastCtr_nowLatch (f : DWord) (s : State) : (s.setLastCtr f).nowLatch = s.nowLatch := (rfl)
@[simp] theorem setLastCtr_inputs (f : DWord) (s : State) : (s.setLastCtr f).inputs = s.inputs := (rfl)
@[simp] theorem setLastCtr_reply (f : DWord) (s : State) : (s.setLastCtr f).reply = s.reply := (rfl)

@[simp] theorem setResult_params (c : Nat) (r : List Byte) (s : State) : (s.setResult c r).params = s.params := (rfl)
@[simp] theorem setResult_alg (c : Nat) (r : List Byte) (s : State) : (s.setResult c r).alg = s.alg := (rfl)
@[simp] theorem setResult_digits (c : Nat) (r : List Byte) (s : State) : (s.setResult c r).digits = s.digits := (rfl)
@[simp] theorem setResult_window (c : Nat) (r : List Byte) (s : State) : (s.setResult c r).window = s.window := (rfl)
@[simp] theorem setResult_interval (c : Nat) (r : List Byte) (s : State) :
    (s.setResult c r).interval = s.interval := (rfl)
@[simp] theorem setResult_keyLen (c : Nat) (r : List Byte) (s : State) : (s.setResult c r).keyLen = s.keyLen := (rfl)
@[simp] theorem setResult_argLo (c : Nat) (r : List Byte) (s : State) : (s.setResult c r).argLo = s.argLo := (rfl)
@[simp] theorem setResult_argHi (c : Nat) (r : List Byte) (s : State) : (s.setResult c r).argHi = s.argHi := (rfl)
@[simp] theorem setResult_candLen (c : Nat) (r : List Byte) (s : State) : (s.setResult c r).candLen = s.candLen := (rfl)
@[simp] theorem setResult_code (c : Nat) (r : List Byte) (s : State) :
    (s.setResult c r).code = BitVec.ofNat 32 c := (rfl)
@[simp] theorem setResult_lastCtrLo (c : Nat) (r : List Byte) (s : State) :
    (s.setResult c r).lastCtrLo = s.lastCtrLo := (rfl)
@[simp] theorem setResult_lastCtrHi (c : Nat) (r : List Byte) (s : State) :
    (s.setResult c r).lastCtrHi = s.lastCtrHi := (rfl)
@[simp] theorem setResult_mem (c : Nat) (r : List Byte) (s : State) :
    (s.setResult c r).mem = s.mem.writeBytes Buffer.result.base ((List.range s.params.maxDigits).map fun k => r.getD k 0) := (rfl)
@[simp] theorem setResult_status (c : Nat) (r : List Byte) (s : State) : (s.setResult c r).status = s.status := (rfl)
@[simp] theorem setResult_phase (c : Nat) (r : List Byte) (s : State) : (s.setResult c r).phase = s.phase := (rfl)
@[simp] theorem setResult_pend (c : Nat) (r : List Byte) (s : State) : (s.setResult c r).pend = s.pend := (rfl)
@[simp] theorem setResult_nowLatch (c : Nat) (r : List Byte) (s : State) :
    (s.setResult c r).nowLatch = s.nowLatch := (rfl)
@[simp] theorem setResult_inputs (c : Nat) (r : List Byte) (s : State) : (s.setResult c r).inputs = s.inputs := (rfl)
@[simp] theorem setResult_reply (c : Nat) (r : List Byte) (s : State) : (s.setResult c r).reply = s.reply := (rfl)

@[simp] theorem setMatch_params (m : Bool) (s : State) : (s.setMatch m).params = s.params := (rfl)
@[simp] theorem setMatch_alg (m : Bool) (s : State) : (s.setMatch m).alg = s.alg := (rfl)
@[simp] theorem setMatch_digits (m : Bool) (s : State) : (s.setMatch m).digits = s.digits := (rfl)
@[simp] theorem setMatch_window (m : Bool) (s : State) : (s.setMatch m).window = s.window := (rfl)
@[simp] theorem setMatch_interval (m : Bool) (s : State) : (s.setMatch m).interval = s.interval := (rfl)
@[simp] theorem setMatch_keyLen (m : Bool) (s : State) : (s.setMatch m).keyLen = s.keyLen := (rfl)
@[simp] theorem setMatch_argLo (m : Bool) (s : State) : (s.setMatch m).argLo = s.argLo := (rfl)
@[simp] theorem setMatch_argHi (m : Bool) (s : State) : (s.setMatch m).argHi = s.argHi := (rfl)
@[simp] theorem setMatch_candLen (m : Bool) (s : State) : (s.setMatch m).candLen = s.candLen := (rfl)
@[simp] theorem setMatch_code (m : Bool) (s : State) : (s.setMatch m).code = s.code := (rfl)
@[simp] theorem setMatch_lastCtrLo (m : Bool) (s : State) : (s.setMatch m).lastCtrLo = s.lastCtrLo := (rfl)
@[simp] theorem setMatch_lastCtrHi (m : Bool) (s : State) : (s.setMatch m).lastCtrHi = s.lastCtrHi := (rfl)
@[simp] theorem setMatch_mem (m : Bool) (s : State) : (s.setMatch m).mem = s.mem := (rfl)
@[simp] theorem setMatch_status (m : Bool) (s : State) : (s.setMatch m).status = s.status.withMatch m := (rfl)
@[simp] theorem setMatch_phase (m : Bool) (s : State) : (s.setMatch m).phase = s.phase := (rfl)
@[simp] theorem setMatch_pend (m : Bool) (s : State) : (s.setMatch m).pend = s.pend := (rfl)
@[simp] theorem setMatch_nowLatch (m : Bool) (s : State) : (s.setMatch m).nowLatch = s.nowLatch := (rfl)
@[simp] theorem setMatch_inputs (m : Bool) (s : State) : (s.setMatch m).inputs = s.inputs := (rfl)
@[simp] theorem setMatch_reply (m : Bool) (s : State) : (s.setMatch m).reply = s.reply := (rfl)

@[simp] theorem drop_params (s : State) : s.drop.params = s.params := (rfl)
@[simp] theorem drop_alg (s : State) : s.drop.alg = s.alg := (rfl)
@[simp] theorem drop_digits (s : State) : s.drop.digits = s.digits := (rfl)
@[simp] theorem drop_window (s : State) : s.drop.window = s.window := (rfl)
@[simp] theorem drop_interval (s : State) : s.drop.interval = s.interval := (rfl)
@[simp] theorem drop_keyLen (s : State) : s.drop.keyLen = s.keyLen := (rfl)
@[simp] theorem drop_argLo (s : State) : s.drop.argLo = s.argLo := (rfl)
@[simp] theorem drop_argHi (s : State) : s.drop.argHi = s.argHi := (rfl)
@[simp] theorem drop_candLen (s : State) : s.drop.candLen = s.candLen := (rfl)
@[simp] theorem drop_code (s : State) : s.drop.code = s.code := (rfl)
@[simp] theorem drop_lastCtrLo (s : State) : s.drop.lastCtrLo = s.lastCtrLo := (rfl)
@[simp] theorem drop_lastCtrHi (s : State) : s.drop.lastCtrHi = s.lastCtrHi := (rfl)
@[simp] theorem drop_mem (s : State) : s.drop.mem = s.mem := (rfl)
@[simp] theorem drop_status (s : State) : s.drop.status = s.status.withDropped := (rfl)
@[simp] theorem drop_phase (s : State) : s.drop.phase = s.phase := (rfl)
@[simp] theorem drop_pend (s : State) : s.drop.pend = s.pend := (rfl)
@[simp] theorem drop_nowLatch (s : State) : s.drop.nowLatch = s.nowLatch := (rfl)
@[simp] theorem drop_inputs (s : State) : s.drop.inputs = s.inputs := (rfl)
@[simp] theorem drop_reply (s : State) : s.drop.reply = s.reply := (rfl)

@[simp] theorem accept_params (w : Word) (now : DWord) (s : State) : (s.accept w now).params = s.params := (rfl)
@[simp] theorem accept_alg (w : Word) (now : DWord) (s : State) : (s.accept w now).alg = s.alg := (rfl)
@[simp] theorem accept_digits (w : Word) (now : DWord) (s : State) : (s.accept w now).digits = s.digits := (rfl)
@[simp] theorem accept_window (w : Word) (now : DWord) (s : State) : (s.accept w now).window = s.window := (rfl)
@[simp] theorem accept_interval (w : Word) (now : DWord) (s : State) : (s.accept w now).interval = s.interval := (rfl)
@[simp] theorem accept_keyLen (w : Word) (now : DWord) (s : State) : (s.accept w now).keyLen = s.keyLen := (rfl)
@[simp] theorem accept_argLo (w : Word) (now : DWord) (s : State) : (s.accept w now).argLo = s.argLo := (rfl)
@[simp] theorem accept_argHi (w : Word) (now : DWord) (s : State) : (s.accept w now).argHi = s.argHi := (rfl)
@[simp] theorem accept_candLen (w : Word) (now : DWord) (s : State) : (s.accept w now).candLen = s.candLen := (rfl)
@[simp] theorem accept_code (w : Word) (now : DWord) (s : State) : (s.accept w now).code = s.code := (rfl)
@[simp] theorem accept_lastCtrLo (w : Word) (now : DWord) (s : State) :
    (s.accept w now).lastCtrLo = s.lastCtrLo := (rfl)
@[simp] theorem accept_lastCtrHi (w : Word) (now : DWord) (s : State) :
    (s.accept w now).lastCtrHi = s.lastCtrHi := (rfl)
@[simp] theorem accept_mem (w : Word) (now : DWord) (s : State) : (s.accept w now).mem = s.mem := (rfl)
@[simp] theorem accept_status (w : Word) (now : DWord) (s : State) :
    (s.accept w now).status = Status.accepted (opcodeField w) := (rfl)
@[simp] theorem accept_phase (w : Word) (now : DWord) (s : State) : (s.accept w now).phase = .busy := (rfl)
@[simp] theorem accept_pend (w : Word) (now : DWord) (s : State) : (s.accept w now).pend = w := (rfl)
@[simp] theorem accept_nowLatch (w : Word) (now : DWord) (s : State) :
    (s.accept w now).nowLatch = if w = 0x00000022 ∨ w = 0x00000023 then now else s.nowLatch := (rfl)
@[simp] theorem accept_inputs (w : Word) (now : DWord) (s : State) : (s.accept w now).inputs = s.inputs := (rfl)
@[simp] theorem accept_reply (w : Word) (now : DWord) (s : State) : (s.accept w now).reply = s.reply := (rfl)

@[simp] theorem setBufByte_params (b : Buffer) (i : Nat) (v : Byte) (s : State) :
    (s.setBufByte b i v).params = s.params := (rfl)
@[simp] theorem setBufByte_alg (b : Buffer) (i : Nat) (v : Byte) (s : State) : (s.setBufByte b i v).alg = s.alg := (rfl)
@[simp] theorem setBufByte_digits (b : Buffer) (i : Nat) (v : Byte) (s : State) :
    (s.setBufByte b i v).digits = s.digits := (rfl)
@[simp] theorem setBufByte_window (b : Buffer) (i : Nat) (v : Byte) (s : State) :
    (s.setBufByte b i v).window = s.window := (rfl)
@[simp] theorem setBufByte_interval (b : Buffer) (i : Nat) (v : Byte) (s : State) :
    (s.setBufByte b i v).interval = s.interval := (rfl)
@[simp] theorem setBufByte_keyLen (b : Buffer) (i : Nat) (v : Byte) (s : State) :
    (s.setBufByte b i v).keyLen = s.keyLen := (rfl)
@[simp] theorem setBufByte_argLo (b : Buffer) (i : Nat) (v : Byte) (s : State) :
    (s.setBufByte b i v).argLo = s.argLo := (rfl)
@[simp] theorem setBufByte_argHi (b : Buffer) (i : Nat) (v : Byte) (s : State) :
    (s.setBufByte b i v).argHi = s.argHi := (rfl)
@[simp] theorem setBufByte_candLen (b : Buffer) (i : Nat) (v : Byte) (s : State) :
    (s.setBufByte b i v).candLen = s.candLen := (rfl)
@[simp] theorem setBufByte_code (b : Buffer) (i : Nat) (v : Byte) (s : State) :
    (s.setBufByte b i v).code = s.code := (rfl)
@[simp] theorem setBufByte_lastCtrLo (b : Buffer) (i : Nat) (v : Byte) (s : State) :
    (s.setBufByte b i v).lastCtrLo = s.lastCtrLo := (rfl)
@[simp] theorem setBufByte_lastCtrHi (b : Buffer) (i : Nat) (v : Byte) (s : State) :
    (s.setBufByte b i v).lastCtrHi = s.lastCtrHi := (rfl)
@[simp] theorem setBufByte_mem (b : Buffer) (i : Nat) (v : Byte) (s : State) :
    (s.setBufByte b i v).mem = if i < b.cap s.params then s.mem.write (b.base + i) v else s.mem := (rfl)
@[simp] theorem setBufByte_status (b : Buffer) (i : Nat) (v : Byte) (s : State) :
    (s.setBufByte b i v).status = s.status := (rfl)
@[simp] theorem setBufByte_phase (b : Buffer) (i : Nat) (v : Byte) (s : State) :
    (s.setBufByte b i v).phase = s.phase := (rfl)
@[simp] theorem setBufByte_pend (b : Buffer) (i : Nat) (v : Byte) (s : State) :
    (s.setBufByte b i v).pend = s.pend := (rfl)
@[simp] theorem setBufByte_nowLatch (b : Buffer) (i : Nat) (v : Byte) (s : State) :
    (s.setBufByte b i v).nowLatch = s.nowLatch := (rfl)
@[simp] theorem setBufByte_inputs (b : Buffer) (i : Nat) (v : Byte) (s : State) :
    (s.setBufByte b i v).inputs = s.inputs := (rfl)
@[simp] theorem setBufByte_reply (b : Buffer) (i : Nat) (v : Byte) (s : State) :
    (s.setBufByte b i v).reply = s.reply := (rfl)

@[simp] theorem generateAt_params (f : DWord) (s : State) : (s.generateAt f).params = s.params := by simp [State.generateAt]
@[simp] theorem generateAt_alg (f : DWord) (s : State) : (s.generateAt f).alg = s.alg := by simp [State.generateAt]
@[simp] theorem generateAt_digits (f : DWord) (s : State) : (s.generateAt f).digits = s.digits := by simp [State.generateAt]
@[simp] theorem generateAt_window (f : DWord) (s : State) : (s.generateAt f).window = s.window := by simp [State.generateAt]
@[simp] theorem generateAt_interval (f : DWord) (s : State) : (s.generateAt f).interval = s.interval := by simp [State.generateAt]
@[simp] theorem generateAt_keyLen (f : DWord) (s : State) : (s.generateAt f).keyLen = s.keyLen := by simp [State.generateAt]
@[simp] theorem generateAt_argLo (f : DWord) (s : State) : (s.generateAt f).argLo = s.argLo := by simp [State.generateAt]
@[simp] theorem generateAt_argHi (f : DWord) (s : State) : (s.generateAt f).argHi = s.argHi := by simp [State.generateAt]
@[simp] theorem generateAt_candLen (f : DWord) (s : State) : (s.generateAt f).candLen = s.candLen := by simp [State.generateAt]
@[simp] theorem generateAt_code (f : DWord) (s : State) : (s.generateAt f).code = BitVec.ofNat 32 (s.codeAt f) := by simp [State.generateAt]
@[simp] theorem generateAt_lastCtrLo (f : DWord) (s : State) : (s.generateAt f).lastCtrLo = f.extractLsb' 0 32 := by simp [State.generateAt]
@[simp] theorem generateAt_lastCtrHi (f : DWord) (s : State) : (s.generateAt f).lastCtrHi = f.extractLsb' 32 32 := by simp [State.generateAt]
@[simp] theorem generateAt_mem (f : DWord) (s : State) :
    (s.generateAt f).mem = (s.setResult (s.codeAt f) (render (s.codeAt f) s.digits.toNat)).mem := by simp [State.generateAt]
@[simp] theorem generateAt_status (f : DWord) (s : State) : (s.generateAt f).status = s.status.completed := by simp [State.generateAt]
@[simp] theorem generateAt_phase (f : DWord) (s : State) : (s.generateAt f).phase = .idle := by simp [State.generateAt]
@[simp] theorem generateAt_pend (f : DWord) (s : State) : (s.generateAt f).pend = s.pend := by simp [State.generateAt]
@[simp] theorem generateAt_nowLatch (f : DWord) (s : State) : (s.generateAt f).nowLatch = s.nowLatch := by simp [State.generateAt]
@[simp] theorem generateAt_inputs (f : DWord) (s : State) : (s.generateAt f).inputs = s.inputs := by simp [State.generateAt]
@[simp] theorem generateAt_reply (f : DWord) (s : State) : (s.generateAt f).reply = s.reply := by simp [State.generateAt]

@[simp] theorem verifyAt_params (c : DWord) (s : State) : (s.verifyAt c).params = s.params := by simp [State.verifyAt]
@[simp] theorem verifyAt_alg (c : DWord) (s : State) : (s.verifyAt c).alg = s.alg := by simp [State.verifyAt]
@[simp] theorem verifyAt_digits (c : DWord) (s : State) : (s.verifyAt c).digits = s.digits := by simp [State.verifyAt]
@[simp] theorem verifyAt_window (c : DWord) (s : State) : (s.verifyAt c).window = s.window := by simp [State.verifyAt]
@[simp] theorem verifyAt_interval (c : DWord) (s : State) : (s.verifyAt c).interval = s.interval := by simp [State.verifyAt]
@[simp] theorem verifyAt_keyLen (c : DWord) (s : State) : (s.verifyAt c).keyLen = s.keyLen := by simp [State.verifyAt]
@[simp] theorem verifyAt_argLo (c : DWord) (s : State) : (s.verifyAt c).argLo = s.argLo := by simp [State.verifyAt]
@[simp] theorem verifyAt_argHi (c : DWord) (s : State) : (s.verifyAt c).argHi = s.argHi := by simp [State.verifyAt]
@[simp] theorem verifyAt_candLen (c : DWord) (s : State) : (s.verifyAt c).candLen = s.candLen := by simp [State.verifyAt]
@[simp] theorem verifyAt_code (c : DWord) (s : State) : (s.verifyAt c).code = s.code := by simp [State.verifyAt]
@[simp] theorem verifyAt_lastCtrLo (c : DWord) (s : State) : (s.verifyAt c).lastCtrLo = c.extractLsb' 0 32 := by simp [State.verifyAt]
@[simp] theorem verifyAt_lastCtrHi (c : DWord) (s : State) : (s.verifyAt c).lastCtrHi = c.extractLsb' 32 32 := by simp [State.verifyAt]
@[simp] theorem verifyAt_mem (c : DWord) (s : State) : (s.verifyAt c).mem = s.mem := by simp [State.verifyAt]
@[simp] theorem verifyAt_status (c : DWord) (s : State) :
    (s.verifyAt c).status = (s.status.withMatch (s.matchesAt c)).completed := by simp [State.verifyAt]
@[simp] theorem verifyAt_phase (c : DWord) (s : State) : (s.verifyAt c).phase = .idle := by simp [State.verifyAt]
@[simp] theorem verifyAt_pend (c : DWord) (s : State) : (s.verifyAt c).pend = s.pend := by simp [State.verifyAt]
@[simp] theorem verifyAt_nowLatch (c : DWord) (s : State) : (s.verifyAt c).nowLatch = s.nowLatch := by simp [State.verifyAt]
@[simp] theorem verifyAt_inputs (c : DWord) (s : State) : (s.verifyAt c).inputs = s.inputs := by simp [State.verifyAt]
@[simp] theorem verifyAt_reply (c : DWord) (s : State) : (s.verifyAt c).reply = s.reply := by simp [State.verifyAt]

@[simp] theorem completed_done (st : Status) : st.completed.done = true := (rfl)
@[simp] theorem completed_err (st : Status) : st.completed.err = st.err := (rfl)
@[simp] theorem completed_matched (st : Status) : st.completed.matched = st.matched := (rfl)
@[simp] theorem completed_dropped (st : Status) : st.completed.dropped = st.dropped := (rfl)
@[simp] theorem completed_errcode (st : Status) : st.completed.errcode = st.errcode := (rfl)
@[simp] theorem completed_lastop (st : Status) : st.completed.lastop = st.lastop := (rfl)

@[simp] theorem raised_done (e : ErrorKind) (st : Status) : (st.raised e).done = st.done := (rfl)
@[simp] theorem raised_err (e : ErrorKind) (st : Status) : (st.raised e).err = true := (rfl)
@[simp] theorem raised_matched (e : ErrorKind) (st : Status) : (st.raised e).matched = false := (rfl)
@[simp] theorem raised_dropped (e : ErrorKind) (st : Status) : (st.raised e).dropped = st.dropped := (rfl)
@[simp] theorem raised_errcode (e : ErrorKind) (st : Status) : (st.raised e).errcode = e.code := (rfl)
@[simp] theorem raised_lastop (e : ErrorKind) (st : Status) : (st.raised e).lastop = st.lastop := (rfl)

@[simp] theorem withMatch_done (m : Bool) (st : Status) : (st.withMatch m).done = st.done := (rfl)
@[simp] theorem withMatch_err (m : Bool) (st : Status) : (st.withMatch m).err = st.err := (rfl)
@[simp] theorem withMatch_matched (m : Bool) (st : Status) : (st.withMatch m).matched = m := (rfl)
@[simp] theorem withMatch_dropped (m : Bool) (st : Status) : (st.withMatch m).dropped = st.dropped := (rfl)
@[simp] theorem withMatch_errcode (m : Bool) (st : Status) : (st.withMatch m).errcode = st.errcode := (rfl)
@[simp] theorem withMatch_lastop (m : Bool) (st : Status) : (st.withMatch m).lastop = st.lastop := (rfl)

@[simp] theorem withDropped_done (st : Status) : st.withDropped.done = st.done := (rfl)
@[simp] theorem withDropped_err (st : Status) : st.withDropped.err = st.err := (rfl)
@[simp] theorem withDropped_matched (st : Status) : st.withDropped.matched = st.matched := (rfl)
@[simp] theorem withDropped_dropped (st : Status) : st.withDropped.dropped = true := (rfl)
@[simp] theorem withDropped_errcode (st : Status) : st.withDropped.errcode = st.errcode := (rfl)
@[simp] theorem withDropped_lastop (st : Status) : st.withDropped.lastop = st.lastop := (rfl)

@[simp] theorem accepted_done (op : Byte) : (Status.accepted op).done = false := (rfl)
@[simp] theorem accepted_err (op : Byte) : (Status.accepted op).err = false := (rfl)
@[simp] theorem accepted_matched (op : Byte) : (Status.accepted op).matched = false := (rfl)
@[simp] theorem accepted_dropped (op : Byte) : (Status.accepted op).dropped = false := (rfl)
@[simp] theorem accepted_errcode (op : Byte) : (Status.accepted op).errcode = 0 := (rfl)
@[simp] theorem accepted_lastop (op : Byte) : (Status.accepted op).lastop = op := (rfl)

@[simp] theorem resetWith_params (p : Params) : (State.resetWith p).params = p := (rfl)
@[simp] theorem resetWith_alg (p : Params) : (State.resetWith p).alg = .sha1 := (rfl)
@[simp] theorem resetWith_digits (p : Params) : (State.resetWith p).digits = 6 := (rfl)
@[simp] theorem resetWith_window (p : Params) : (State.resetWith p).window = 1 := (rfl)
@[simp] theorem resetWith_interval (p : Params) : (State.resetWith p).interval = 30 := (rfl)
@[simp] theorem resetWith_keyLen (p : Params) : (State.resetWith p).keyLen = 0 := (rfl)
@[simp] theorem resetWith_argLo (p : Params) : (State.resetWith p).argLo = 0 := (rfl)
@[simp] theorem resetWith_argHi (p : Params) : (State.resetWith p).argHi = 0 := (rfl)
@[simp] theorem resetWith_candLen (p : Params) : (State.resetWith p).candLen = 0 := (rfl)
@[simp] theorem resetWith_code (p : Params) : (State.resetWith p).code = 0 := (rfl)
@[simp] theorem resetWith_lastCtrLo (p : Params) : (State.resetWith p).lastCtrLo = 0 := (rfl)
@[simp] theorem resetWith_lastCtrHi (p : Params) : (State.resetWith p).lastCtrHi = 0 := (rfl)
@[simp] theorem resetWith_mem (p : Params) : (State.resetWith p).mem = [] := (rfl)
@[simp] theorem resetWith_status (p : Params) : (State.resetWith p).status = Status.reset := (rfl)
@[simp] theorem resetWith_phase (p : Params) : (State.resetWith p).phase = .idle := (rfl)
@[simp] theorem resetWith_pend (p : Params) : (State.resetWith p).pend = 0 := (rfl)
@[simp] theorem resetWith_nowLatch (p : Params) : (State.resetWith p).nowLatch = 0 := (rfl)
@[simp] theorem resetWith_inputs (p : Params) : (State.resetWith p).inputs = [] := (rfl)
@[simp] theorem resetWith_reply (p : Params) : (State.resetWith p).reply = .none := (rfl)

/-- Reset leaves the parameters and the moves still to come, and every other field at its reset value. -/
theorem resetBlock_eq (s : State) : s.resetBlock = (State.resetWith s.params).withInputs s.inputs := (rfl)

@[simp] theorem busy_idle (s : State) (h : s.phase = .idle) : s.busy = false := by simp [State.busy, h]

@[simp] theorem busy_busy (s : State) (h : s.phase = .busy) : s.busy = true := by simp [State.busy, h]

end Sys2Proof.Machine
end

