-- ==== Sys2Proof/Laws/Memory.lean ====
section
/-! SUPPORT. The laws of memory: what a write does to every read, and that every operation keeps the canonical
form. -/

namespace Sys2Proof.Machine

@[simp] theorem read_nil (a : Nat) : Memory.read [] a = 0 := rfl

@[simp] theorem read_cons (k : Nat) (v : Byte) (m : Memory) (a : Nat) :
    Memory.read ((k, v) :: m) a = if k = a then v else Memory.read m a := rfl

/-- An address below or beyond every listed one reads as the unlisted value. -/
theorem read_unlisted {m : Memory} {a : Nat} (h : ∀ c ∈ m, c.1 ≠ a) : Memory.read m a = 0 := by
  induction m with
  | nil => rfl
  | cons c m ih =>
    obtain ⟨k, v⟩ := c
    simp only [read_cons, if_neg (h (k, v) (by simp))]
    exact ih fun c hc => h c (by simp [hc])

/-- A write leaves every other address as it was. -/
theorem read_write_other (m : Memory) {a a' : Nat} (b : Byte) (h : a' ≠ a) :
    Memory.read (Memory.write m a b) a' = Memory.read m a' := by
  induction m with
  | nil => simp only [Memory.write]; split <;> simp [h.symm]
  | cons c m ih =>
    obtain ⟨k, v⟩ := c
    simp only [Memory.write]
    split
    · split <;> simp [h.symm]
    · split
      · subst k; split <;> simp [h.symm]
      · simp [ih]

theorem Memory.wf.tail {c : Host.Cell} {m : Memory} (h : Memory.wf (c :: m)) : Memory.wf m :=
  ⟨(List.pairwise_cons.1 h.1).2, fun x hx => h.2 x (by simp [hx])⟩

/-- A read after a write to the same address gives the byte written. -/
theorem read_write_same {m : Memory} (hm : m.wf) (a : Nat) (b : Byte) :
    Memory.read (Memory.write m a b) a = b := by
  induction m with
  | nil =>
    simp only [Memory.write]
    split
    · next h => simp [h, Memory.unlisted]
    · simp
  | cons c m ih =>
    obtain ⟨k, v⟩ := c
    have hlt : ∀ c ∈ m, k < c.1 := (List.pairwise_cons.1 hm.1).1
    simp only [Memory.write]
    split
    · next hk =>
      split
      · next hb =>
        rw [read_unlisted (fun c hc => ?_), hb]; rfl
        rcases List.mem_cons.1 hc with rfl | hc
        · exact (Nat.ne_of_gt hk)
        · exact Nat.ne_of_gt (Nat.lt_trans hk (hlt c hc))
      · simp
    · split
      · next hk =>
        subst hk
        split
        · next hb => rw [read_unlisted fun c hc => Nat.ne_of_gt (hlt c hc), hb]; rfl
        · simp
      · next hne => simp [Ne.symm hne, ih hm.tail]

/-- One law for both: what a write does to every read. -/
theorem read_write {m : Memory} (hm : m.wf) (a a' : Nat) (b : Byte) :
    Memory.read (Memory.write m a b) a' = if a' = a then b else Memory.read m a' := by
  split
  · next h => subst h; exact read_write_same hm _ b
  · next h => exact read_write_other m b h

/-- What a write may list: its own address, and what was listed before. -/
theorem mem_write {m : Memory} {a : Nat} {b : Byte} {c : Host.Cell} (h : c ∈ Memory.write m a b) :
    c = (a, b) ∨ c ∈ m := by
  induction m with
  | nil => simp only [Memory.write] at h; split at h <;> simp_all
  | cons d m ih =>
    obtain ⟨k, v⟩ := d
    simp only [Memory.write] at h
    split at h
    · split at h
      · exact .inr h
      · simpa using h
    · split at h
      · split at h
        · exact .inr (by simp [h])
        · rcases List.mem_cons.1 h with h | h
          · exact .inl h
          · exact .inr (by simp [h])
      · rcases List.mem_cons.1 h with h | h
        · exact .inr (by simp [h])
        · rcases ih h with h | h
          · exact .inl h
          · exact .inr (by simp [h])

/-- A write keeps the canonical form. -/
theorem wf_write {m : Memory} (hm : m.wf) (a : Nat) (b : Byte) : Memory.wf (Memory.write m a b) := by
  induction m with
  | nil =>
    simp only [Memory.write]
    split
    · exact hm
    · next hb => exact ⟨by simp, by simpa using hb⟩
  | cons c m ih =>
    obtain ⟨k, v⟩ := c
    have hlt : ∀ c ∈ m, k < c.1 := (List.pairwise_cons.1 hm.1).1
    simp only [Memory.write]
    split
    · next hk =>
      split
      · exact hm
      · next hb =>
        refine ⟨List.pairwise_cons.2 ⟨fun c hc => ?_, hm.1⟩, fun c hc => ?_⟩
        · rcases List.mem_cons.1 hc with rfl | hc
          · exact hk
          · exact Nat.lt_trans hk (hlt c hc)
        · rcases List.mem_cons.1 hc with rfl | hc
          · exact hb
          · exact hm.2 c hc
    · split
      · next hk =>
        subst hk
        split
        · exact hm.tail
        · next hb =>
          refine ⟨List.pairwise_cons.2 ⟨hlt, hm.tail.1⟩, fun c hc => ?_⟩
          rcases List.mem_cons.1 hc with rfl | hc
          · exact hb
          · exact hm.tail.2 c hc
      · next hnlt hne =>
        refine ⟨List.pairwise_cons.2 ⟨fun c hc => ?_, (ih hm.tail).1⟩, fun c hc => ?_⟩
        · rcases mem_write hc with rfl | hc
          · have : k ≠ a := fun h => hne h.symm
            show k < a
            omega
          · exact hlt c hc
        · rcases List.mem_cons.1 hc with rfl | hc
          · exact hm.2 _ (by simp)
          · exact (ih hm.tail).2 c hc

/-- Consecutive writes keep the canonical form. -/
theorem wf_writeBytes {m : Memory} (hm : m.wf) (a : Nat) (bs : List Byte) : Memory.wf (Memory.writeBytes m a bs) := by
  induction bs generalizing m a with
  | nil => exact hm
  | cons b bs ih => exact ih (wf_write hm a b) (a + 1)

/-- Consecutive writes leave every address outside them as it was. -/
theorem read_writeBytes_other (m : Memory) {a a' : Nat} (bs : List Byte) (h : ¬(a ≤ a' ∧ a' < a + bs.length)) :
    Memory.read (Memory.writeBytes m a bs) a' = Memory.read m a' := by
  induction bs generalizing m a with
  | nil => rfl
  | cons b bs ih =>
    simp only [List.length_cons] at h
    rw [Memory.writeBytes, ih _ (by omega), read_write_other _ _ (by omega)]

/-- The byte at each address of consecutive writes. -/
theorem read_writeBytes {m : Memory} (hm : m.wf) (a : Nat) (bs : List Byte) {k : Nat} (hk : k < bs.length) :
    Memory.read (Memory.writeBytes m a bs) (a + k) = bs.getD k 0 := by
  induction bs generalizing m a k with
  | nil => simp at hk
  | cons b bs ih =>
    rw [Memory.writeBytes]
    cases k with
    | zero => rw [read_writeBytes_other _ _ (by omega)]; simpa using read_write_same hm a b
    | succ k =>
      have := ih (wf_write hm a b) (a + 1) (k := k) (by simpa using hk)
      simpa [Nat.add_assoc, Nat.add_comm 1 k] using this

/-- What consecutive writes may list. -/
theorem mem_writeBytes {m : Memory} {a : Nat} {bs : List Byte} {c : Host.Cell}
    (h : c ∈ Memory.writeBytes m a bs) : (a ≤ c.1 ∧ c.1 < a + bs.length) ∨ c ∈ m := by
  induction bs generalizing m a with
  | nil => exact .inr h
  | cons b bs ih =>
    rcases ih h with h | h
    · left; simp only [List.length_cons]; omega
    · rcases mem_write h with rfl | h
      · left; simp
      · exact .inr h

/-- Equal reads of canonical memories are equal memories: the canonical form is one form. -/
theorem wf_ext {m n : Memory} (hm : m.wf) (hn : n.wf) (h : ∀ a, m.read a = n.read a) : m = n := by
  induction m generalizing n with
  | nil =>
    cases n with
    | nil => rfl
    | cons c n =>
      obtain ⟨k, v⟩ := c
      exact absurd (by simpa [Memory.unlisted] using (h k).symm) (hn.2 (k, v) (by simp))
  | cons c m ih =>
    cases n with
    | nil =>
      obtain ⟨k, v⟩ := c
      exact absurd (by simpa [Memory.unlisted] using h k) (hm.2 (k, v) (by simp))
    | cons d n =>
      obtain ⟨k, v⟩ := c
      obtain ⟨k', v'⟩ := d
      have hlt : ∀ c ∈ m, k < c.1 := (List.pairwise_cons.1 hm.1).1
      have hlt' : ∀ c ∈ n, k' < c.1 := (List.pairwise_cons.1 hn.1).1
      have hv : v ≠ 0 := hm.2 (k, v) (by simp)
      have hv' : v' ≠ 0 := hn.2 (k', v') (by simp)
      have h1 := h k
      have h2 := h k'
      have hkk : k = k' := by
        rcases Nat.lt_trichotomy k k' with hl | hl | hl
        · simp [Nat.ne_of_gt hl, read_unlisted (fun c hc => Nat.ne_of_gt (Nat.lt_trans hl (hlt' c hc)))] at h1
          exact absurd h1 hv
        · exact hl
        · simp [Nat.ne_of_gt hl, read_unlisted (fun c hc => Nat.ne_of_gt (Nat.lt_trans hl (hlt c hc)))] at h2
          exact absurd h2.symm hv'
      subst hkk
      have hvv : v = v' := by simpa using h1
      subst hvv
      congr 1
      refine ih hm.tail hn.tail fun a => ?_
      by_cases ha : k = a
      · subst ha
        rw [read_unlisted fun c hc => Nat.ne_of_gt (hlt c hc), read_unlisted fun c hc => Nat.ne_of_gt (hlt' c hc)]
      · simpa [ha] using h a

/-- The memory after reset is in its canonical form. -/
theorem resetWith_wf (p : Params) : (State.resetWith p).mem.wf := by
  show Memory.wf []
  decide

/-- The memory of the first state is in its canonical form. -/
theorem reset_wf : State.reset.mem.wf := resetWith_wf _

end Sys2Proof.Machine
end

