-- ==== Sys2Proof/Laws/Bus.lean ====
section
/-! SUPPORT. The laws of the buffers and of the host bus: what an offset selects, what a write does to every byte,
and the cases of an access. -/

namespace Sys2Proof.Machine

/-- Beyond the registers the map is the windows. -/
theorem ofOffset_window {o : Nat} (h : 0x038 ≤ o) : Target.ofOffset o = Target.ofWindow o := by
  unfold Target.ofOffset
  split <;> first | omega | rfl

theorem ofOffset_key {o : Nat} (h : 0x100 ≤ o) (h' : o < 0x200) : Target.ofOffset o = .buf .key (o - 0x100) := by
  rw [ofOffset_window (by omega), Target.ofWindow, if_pos ⟨h, h'⟩]

theorem ofOffset_cand {o : Nat} (h : 0x200 ≤ o) (h' : o < 0x240) : Target.ofOffset o = .buf .cand (o - 0x200) := by
  rw [ofOffset_window (by omega), Target.ofWindow, if_neg (by omega), if_pos ⟨h, h'⟩]

theorem ofOffset_result {o : Nat} (h : 0x240 ≤ o) (h' : o < 0x280) : Target.ofOffset o = .buf .result (o - 0x240) := by
  rw [ofOffset_window (by omega), Target.ofWindow, if_neg (by omega), if_neg (by omega), if_pos ⟨h, h'⟩]

theorem ofOffset_unmapped {o : Nat} (h : (0x038 ≤ o ∧ o < 0x100) ∨ 0x280 ≤ o) : Target.ofOffset o = .unmapped := by
  rw [ofOffset_window (by omega), Target.ofWindow, if_neg (by omega), if_neg (by omega), if_neg (by omega)]

/-- A register's offset selects that register. -/
@[simp] theorem ofOffset_reg (r : Reg) : Target.ofOffset r.offset = .reg r := by cases r <;> rfl

/-- A window's offset selects that window. -/
theorem ofOffset_buf (b : Buffer) {i : Nat} (h : i < b.size) : Target.ofOffset (b.base + i) = .buf b i := by
  cases b <;> simp only [Buffer.base, Buffer.size] at h ⊢
  · rw [ofOffset_key (by omega) (by omega), Nat.add_sub_cancel_left]
  · rw [ofOffset_cand (by omega) (by omega), Nat.add_sub_cancel_left]
  · rw [ofOffset_result (by omega) (by omega), Nat.add_sub_cancel_left]

@[simp] theorem memRead_reg (s : State) (r : Reg) : s.memRead r.offset = s.readReg r := by
  rw [State.memRead, ofOffset_reg]

theorem memRead_buf (s : State) (b : Buffer) {i : Nat} (h : i < b.size) :
    s.memRead (b.base + i) = wordOfBytes fun j => s.bufByte b (i + j) := by
  rw [State.memRead, ofOffset_buf b h]

/-- Bit `k` of the word of four bytes is bit `k % 8` of byte `k / 8`. -/
theorem getLsbD_wordOfBytes (f : Nat → Byte) (k : Nat) :
    (wordOfBytes f).getLsbD k = if k < 32 then (f (k / 8)).getLsbD (k % 8) else false := by
  have e : (wordOfBytes f).getLsbD k = (f 3 ++ f 2 ++ f 1 ++ f 0 : BitVec (8 + 8 + 8 + 8)).getLsbD k := rfl
  rw [e]
  simp only [BitVec.getLsbD_append]
  by_cases h0 : k < 8
  · rw [if_pos h0, if_pos (by omega), show k / 8 = 0 by omega, show k % 8 = k by omega]
  · by_cases h1 : k < 16
    · rw [if_neg h0, if_pos (by omega), if_pos (by omega), show k / 8 = 1 by omega, show k % 8 = k - 8 by omega]
    · by_cases h2 : k < 24
      · rw [if_neg h0, if_neg (by omega), if_pos (by omega), if_pos (by omega), show k / 8 = 2 by omega,
          show k % 8 = k - 8 - 8 by omega]
      · rw [if_neg h0, if_neg (by omega), if_neg (by omega)]
        by_cases h3 : k < 32
        · rw [if_pos h3, show k / 8 = 3 by omega, show k % 8 = k - 8 - 8 - 8 by omega]
        · rw [if_neg h3, BitVec.getLsbD_of_ge _ _ (by omega)]

/-- With nothing listed in memory every buffer byte reads as 0x00. -/
theorem bufByte_nil {s : State} (h : s.mem = []) (b : Buffer) (i : Nat) : s.bufByte b i = 0 := by
  rw [State.bufByte, h, read_nil, ite_self]

/-- Byte `j` of the word of four bytes is byte `j`. -/
theorem byteOfWord_wordOfBytes (f : Nat → Byte) {j : Nat} (h : j < 4) : byteOfWord (wordOfBytes f) j = f j := by
  apply BitVec.eq_of_getLsbD_eq
  intro k hk
  rw [byteOfWord, BitVec.getLsbD_extractLsb', getLsbD_wordOfBytes, if_pos (by omega),
    show (8 * j + k) / 8 = j by omega, show (8 * j + k) % 8 = k by omega]
  simp [hk]

/-- A word is the word of its four bytes. -/
theorem wordOfBytes_byteOfWord (v : Word) : (wordOfBytes fun j => byteOfWord v j) = v := by
  apply BitVec.eq_of_getLsbD_eq
  intro k hk
  rw [getLsbD_wordOfBytes, if_pos hk, byteOfWord, BitVec.getLsbD_extractLsb', show 8 * (k / 8) + k % 8 = k by omega]
  simp [Nat.mod_lt]

/-- The word of four bytes depends on those four alone. -/
theorem wordOfBytes_congr {f g : Nat → Byte} (h : ∀ j < 4, f j = g j) : wordOfBytes f = wordOfBytes g := by
  simp [wordOfBytes, h 0, h 1, h 2, h 3]

theorem setBufWord_eq (b : Buffer) (i : Nat) (v : Word) (s : State) :
    s.setBufWord b i v =
      (((s.setBufByte b (i + 0) (byteOfWord v 0)).setBufByte b (i + 1) (byteOfWord v 1)).setBufByte b (i + 2)
        (byteOfWord v 2)).setBufByte b (i + 3) (byteOfWord v 3) := (rfl)

@[simp] theorem setBufWord_params (b : Buffer) (i : Nat) (v : Word) (s : State) :
    (s.setBufWord b i v).params = s.params := by simp [setBufWord_eq]
@[simp] theorem setBufWord_alg (b : Buffer) (i : Nat) (v : Word) (s : State) :
    (s.setBufWord b i v).alg = s.alg := by simp [setBufWord_eq]
@[simp] theorem setBufWord_digits (b : Buffer) (i : Nat) (v : Word) (s : State) :
    (s.setBufWord b i v).digits = s.digits := by simp [setBufWord_eq]
@[simp] theorem setBufWord_window (b : Buffer) (i : Nat) (v : Word) (s : State) :
    (s.setBufWord b i v).window = s.window := by simp [setBufWord_eq]
@[simp] theorem setBufWord_interval (b : Buffer) (i : Nat) (v : Word) (s : State) :
    (s.setBufWord b i v).interval = s.interval := by simp [setBufWord_eq]
@[simp] theorem setBufWord_keyLen (b : Buffer) (i : Nat) (v : Word) (s : State) :
    (s.setBufWord b i v).keyLen = s.keyLen := by simp [setBufWord_eq]
@[simp] theorem setBufWord_argLo (b : Buffer) (i : Nat) (v : Word) (s : State) :
    (s.setBufWord b i v).argLo = s.argLo := by simp [setBufWord_eq]
@[simp] theorem setBufWord_argHi (b : Buffer) (i : Nat) (v : Word) (s : State) :
    (s.setBufWord b i v).argHi = s.argHi := by simp [setBufWord_eq]
@[simp] theorem setBufWord_candLen (b : Buffer) (i : Nat) (v : Word) (s : State) :
    (s.setBufWord b i v).candLen = s.candLen := by simp [setBufWord_eq]
@[simp] theorem setBufWord_code (b : Buffer) (i : Nat) (v : Word) (s : State) :
    (s.setBufWord b i v).code = s.code := by simp [setBufWord_eq]
@[simp] theorem setBufWord_lastCtrLo (b : Buffer) (i : Nat) (v : Word) (s : State) :
    (s.setBufWord b i v).lastCtrLo = s.lastCtrLo := by simp [setBufWord_eq]
@[simp] theorem setBufWord_lastCtrHi (b : Buffer) (i : Nat) (v : Word) (s : State) :
    (s.setBufWord b i v).lastCtrHi = s.lastCtrHi := by simp [setBufWord_eq]
@[simp] theorem setBufWord_status (b : Buffer) (i : Nat) (v : Word) (s : State) :
    (s.setBufWord b i v).status = s.status := by simp [setBufWord_eq]
@[simp] theorem setBufWord_phase (b : Buffer) (i : Nat) (v : Word) (s : State) :
    (s.setBufWord b i v).phase = s.phase := by simp [setBufWord_eq]
@[simp] theorem setBufWord_pend (b : Buffer) (i : Nat) (v : Word) (s : State) :
    (s.setBufWord b i v).pend = s.pend := by simp [setBufWord_eq]
@[simp] theorem setBufWord_nowLatch (b : Buffer) (i : Nat) (v : Word) (s : State) :
    (s.setBufWord b i v).nowLatch = s.nowLatch := by simp [setBufWord_eq]
@[simp] theorem setBufWord_inputs (b : Buffer) (i : Nat) (v : Word) (s : State) :
    (s.setBufWord b i v).inputs = s.inputs := by simp [setBufWord_eq]
@[simp] theorem setBufWord_reply (b : Buffer) (i : Nat) (v : Word) (s : State) :
    (s.setBufWord b i v).reply = s.reply := by simp [setBufWord_eq]

/-- A byte write into a buffer keeps the canonical form. -/
theorem setBufByte_wf (b : Buffer) (i : Nat) (v : Byte) {s : State} (h : s.mem.wf) : (s.setBufByte b i v).mem.wf := by
  rw [setBufByte_mem]
  split
  · exact wf_write h _ _
  · exact h

/-- What a byte write into a buffer does to every byte of memory. -/
theorem setBufByte_read (b : Buffer) (i : Nat) (v : Byte) {s : State} (h : s.mem.wf) (a : Nat) :
    (s.setBufByte b i v).mem.read a = if a = b.base + i ∧ i < b.cap s.params then v else s.mem.read a := by
  rw [setBufByte_mem]
  by_cases hi : i < b.cap s.params
  · simp [hi, read_write h]
  · simp [hi]

/-- A word write into a buffer keeps the canonical form. -/
theorem setBufWord_wf (b : Buffer) (i : Nat) (v : Word) {s : State} (h : s.mem.wf) : (s.setBufWord b i v).mem.wf := by
  rw [setBufWord_eq]
  exact setBufByte_wf _ _ _ (setBufByte_wf _ _ _ (setBufByte_wf _ _ _ (setBufByte_wf _ _ _ h)))

/-- A word write into a buffer leaves every byte but its own four, and those beyond the capacity, as they were. -/
theorem setBufWord_read_other (b : Buffer) (i : Nat) (v : Word) (s : State) {a : Nat}
    (h : ∀ j < 4, a = b.base + (i + j) → ¬(i + j < b.cap s.params)) :
    (s.setBufWord b i v).mem.read a = s.mem.read a := by
  have key : ∀ (j : Nat) (x : Byte) (t : State), j < 4 → t.params = s.params →
      (t.setBufByte b (i + j) x).mem.read a = t.mem.read a := by
    intro j x t hj hp
    rw [setBufByte_mem, hp]
    split
    · next hc => exact read_write_other _ _ fun e => h j hj e hc
    · rfl
  rw [setBufWord_eq]
  exact (key 3 _ _ (by omega) (by simp)).trans <| (key 2 _ _ (by omega) (by simp)).trans <|
    (key 1 _ _ (by omega) (by simp)).trans (key 0 _ _ (by omega) rfl)

/-- The bytes that a word write into a buffer stores. -/
theorem setBufWord_read_same (b : Buffer) (i : Nat) (v : Word) {s : State} (hm : s.mem.wf) {j : Nat} (hj : j < 4)
    (hc : i + j < b.cap s.params) : (s.setBufWord b i v).mem.read (b.base + (i + j)) = byteOfWord v j := by
  have h0 := setBufByte_wf b (i + 0) (byteOfWord v 0) hm
  have h1 := setBufByte_wf b (i + 1) (byteOfWord v 1) h0
  have h2 := setBufByte_wf b (i + 2) (byteOfWord v 2) h1
  rw [setBufWord_eq, setBufByte_read _ _ _ h2, setBufByte_read _ _ _ h1, setBufByte_read _ _ _ h0,
    setBufByte_read _ _ _ hm]
  simp only [setBufByte_params]
  have : j = 0 ∨ j = 1 ∨ j = 2 ∨ j = 3 := by omega
  rcases this with rfl | rfl | rfl | rfl <;> simp_all

/-- What a word write into a buffer may list: its own bytes within the capacity, and what was listed before. -/
theorem mem_setBufWord (b : Buffer) (i : Nat) (v : Word) (s : State) {c : Host.Cell}
    (h : c ∈ (s.setBufWord b i v).mem) : (b.base ≤ c.1 ∧ c.1 < b.base + b.cap s.params) ∨ c ∈ s.mem := by
  have key : ∀ (k : Nat) (x : Byte) (t : State), t.params = s.params → c ∈ (t.setBufByte b k x).mem →
      (b.base ≤ c.1 ∧ c.1 < b.base + b.cap s.params) ∨ c ∈ t.mem := by
    intro k x t hp hc
    rw [setBufByte_mem, hp] at hc
    split at hc
    · rcases mem_write hc with rfl | hc
      · left; simp only; omega
      · exact .inr hc
    · exact .inr hc
  rw [setBufWord_eq] at h
  exact (key _ _ _ (by simp) h).elim .inl fun h => (key _ _ _ (by simp) h).elim .inl fun h =>
    (key _ _ _ (by simp) h).elim .inl fun h => key _ _ _ rfl h

/-- A write that a BUSY block drops. -/
theorem unlessBusy_busy {s : State} (h : s.phase = .busy) (t : State) : s.unlessBusy t = s.drop := by
  simp [State.unlessBusy, h]

/-- A write that an IDLE block performs. -/
theorem unlessBusy_idle {s : State} (h : s.phase = .idle) (t : State) : s.unlessBusy t = t := by
  simp [State.unlessBusy, h]

/-- A write into the KEY or the CAND window. -/
theorem memWrite_buf (s : State) {b : Buffer} (hb : b ≠ .result) {i : Nat} (h : i < b.size) (v : Word) (now : DWord) :
    s.memWrite (b.base + i) v now = s.unlessBusy (s.setBufWord b i v) := by
  rw [State.memWrite, ofOffset_buf b h]
  cases b
  · rfl
  · rfl
  · exact absurd rfl hb

/-- A write into the RESULT window. -/
theorem memWrite_result (s : State) {i : Nat} (h : i < Buffer.result.size) (v : Word) (now : DWord) :
    s.memWrite (Buffer.result.base + i) v now = s := by rw [State.memWrite, ofOffset_buf _ h]

/-- A write to an unmapped offset. -/
theorem memWrite_unmapped (s : State) {o : Nat} (h : (0x038 ≤ o ∧ o < 0x100) ∨ 0x280 ≤ o) (v : Word) (now : DWord) :
    s.memWrite o v now = s := by rw [State.memWrite, ofOffset_unmapped h]

theorem memWrite_cmd (s : State) (v : Word) (now : DWord) :
    s.memWrite 0x000 v now = s.unlessBusy (s.accept v now) := (rfl)

theorem memWrite_argLo (s : State) (v : Word) (now : DWord) :
    s.memWrite 0x008 v now = s.unlessBusy { s with argLo := v } := (rfl)

theorem memWrite_argHi (s : State) (v : Word) (now : DWord) :
    s.memWrite 0x00C v now = s.unlessBusy { s with argHi := v } := (rfl)

theorem memWrite_candLen (s : State) (v : Word) (now : DWord) :
    s.memWrite 0x024 v now = s.unlessBusy { s with candLen := v } := (rfl)

/-- A write to a read-only register. -/
theorem memWrite_readOnly (s : State) (r : Reg) (h : r ≠ .cmd) (h1 : r ≠ .argLo) (h2 : r ≠ .argHi) (h3 : r ≠ .candLen)
    (v : Word) (now : DWord) : s.memWrite r.offset v now = s := by
  rw [State.memWrite, ofOffset_reg]
  cases r <;> first | rfl | exact absurd rfl ‹_›

/-- While BUSY a write does nothing but, at most, set DROPPED. -/
theorem memWrite_busy {s : State} (h : s.phase = .busy) (o : Nat) (v : Word) (now : DWord) :
    s.memWrite o v now = s ∨ s.memWrite o v now = s.drop := by
  unfold State.memWrite
  split <;> simp [unlessBusy_busy h]

/-- Which offset CMD has. -/
theorem ofOffset_cmd {o : Nat} (h : Target.ofOffset o = .reg .cmd) : o = 0 := by
  unfold Target.ofOffset at h
  split at h <;> first | rfl | (simp at h) | skip
  unfold Target.ofWindow at h
  repeat' split at h
  all_goals simp at h

/-- The cases of a write while IDLE; the acceptance is a write to CMD. -/
theorem memWrite_idle {s : State} (h : s.phase = .idle) (o : Nat) (v : Word) (now : DWord) :
    s.memWrite o v now = s ∨ (o = 0 ∧ s.memWrite o v now = s.accept v now) ∨
      s.memWrite o v now = { s with argLo := v } ∨ s.memWrite o v now = { s with argHi := v } ∨
      s.memWrite o v now = { s with candLen := v } ∨
      (∃ i, s.memWrite o v now = s.setBufWord .key i v) ∨ ∃ i, s.memWrite o v now = s.setBufWord .cand i v := by
  generalize ht : s.memWrite o v now = t
  unfold State.memWrite at ht
  split at ht <;> (try rw [unlessBusy_idle h] at ht) <;> subst ht
  all_goals first
    | (left; with_reducible rfl)
    | (right; left; exact ⟨ofOffset_cmd ‹_›, by with_reducible rfl⟩)
    | (right; right; left; with_reducible rfl)
    | (right; right; right; left; with_reducible rfl)
    | (right; right; right; right; left; with_reducible rfl)
    | (right; right; right; right; right; left; exact ⟨_, by with_reducible rfl⟩)
    | (right; right; right; right; right; right; exact ⟨_, by with_reducible rfl⟩)

/-- The outcomes of a host access: everything that `performAccess` can answer. -/
theorem performAccess_cases {a : Access} {now : DWord} {s t : State} (h : performAccess a now s = .next t) :
    (a.kind = .read ∧ t = s.withReply (.data (s.memRead (a.offset s.params)))) ∨
      ∃ v, a.kind = .write v ∧ t = (s.memWrite (a.offset s.params) v now).withReply .ack := by
  unfold performAccess at h
  split at h
  · split at h
    · split at h
      · next hk => exact .inl ⟨hk, by simpa using h.symm⟩
      · next v hk => exact .inr ⟨v, hk, by simpa using h.symm⟩
    · simp at h
  · simp at h

/-- An access in the window, 32 bits wide and aligned, is performed. -/
theorem performAccess_word (s : State) {o : Nat} (k : AccessKind) (now : DWord) (h : o % 4 = 0) (h' : o < 0x1000) :
    performAccess (wordAccess s.params o k) now s =
      match k with
      | .read => .next (s.withReply (.data (s.memRead o)))
      | .write v => .next ((s.memWrite o v now).withReply .ack) := by
  cases k <;>
    simp [performAccess, wordAccess, Access.inWindow, Access.wordAligned, Access.offset, Config.windowBytes, h, h']

end Sys2Proof.Machine
end

