-- ==== Sys2Proof/Laws/Command.lean ====
section
/-! SUPPORT. The laws of a command's life: its operands, what a generate leaves in memory, and what a completion
and a step can answer. -/

namespace Sys2Proof.Machine

/-- `s32` is the two's-complement reading of the word. -/
theorem s32_eq_toInt (v : Word) : s32 v = v.toInt := by
  rw [s32, BitVec.toInt_eq_toNat_cond]
  split <;> split <;> omega

/-- ARG64 as a number. -/
theorem arg64_toNat (s : State) : s.arg64.toNat = s.argHi.toNat * 2 ^ 32 + s.argLo.toNat := by
  rw [State.arg64, BitVec.toNat_append, Nat.shiftLeft_eq, Nat.mul_comm, ← Nat.two_pow_add_eq_or_of_lt s.argLo.isLt]

/-- The two halves of LAST_CTR are the counter. -/
theorem lastCtr_halves (f : DWord) : (f.extractLsb' 32 32 ++ f.extractLsb' 0 32 : BitVec (32 + 32)) = f := by
  apply BitVec.eq_of_getLsbD_eq
  intro k hk
  rw [BitVec.getLsbD_append]
  split
  · next h => simp [h]
  · simp only [BitVec.getLsbD_extractLsb']
    rw [show 32 + (k - 32) = k by omega]
    simp; omega

/-- What writing a result leaves in RESULT: the string, then 0x00. -/
theorem setResult_bufByte (c : Nat) (r : List Byte) {s : State} (hm : s.mem.wf) (k : Nat) :
    (s.setResult c r).bufByte .result k = if k < s.params.maxDigits then r.getD k 0 else 0 := by
  simp only [State.bufByte, setResult_params, setResult_mem, Buffer.cap]
  split
  · next h => rw [read_writeBytes hm _ _ (by simpa using h)]; simp [h]
  · rfl

/-- Writing a result leaves every byte outside the RESULT buffer as it was. -/
theorem setResult_read_other (c : Nat) (r : List Byte) (s : State) {a : Nat}
    (h : ¬(Buffer.result.base ≤ a ∧ a < Buffer.result.base + s.params.maxDigits)) :
    (s.setResult c r).mem.read a = s.mem.read a := by
  rw [setResult_mem, read_writeBytes_other _ _ (by simpa using h)]

/-- Writing a result keeps the canonical form. -/
theorem setResult_wf (c : Nat) (r : List Byte) {s : State} (hm : s.mem.wf) : (s.setResult c r).mem.wf := by
  rw [setResult_mem]; exact wf_writeBytes hm _ _

/-- The cases of a command's meaning: a failed setter, a committed setter, a generate or a verify. -/
theorem exec_cases (i : Instr) (s : State) :
    ∃ t, exec i s = .next t ∧
      ((∃ e, t = s.raiseError e) ∨
        (i = .setSecret ∧ s.argLo.toNat ≤ s.params.maxKeyBytes ∧ t = ({ s with keyLen := s.argLo }).finish) ∨
        (i = .setAlgorithm ∧ ∃ a, Alg.ofCode s.argLo = some a ∧ t = ({ s with alg := a }).finish) ∨
        (i = .setPasswordLength ∧ 1 ≤ s32 s.argLo ∧ s32 s.argLo ≤ s.params.maxDigits ∧
          t = ({ s with digits := s.argLo }).finish) ∨
        (i = .setWindowSize ∧ 0 ≤ s32 s.argLo ∧ t = ({ s with window := s.argLo }).finish) ∨
        (i = .setInterval ∧ 1 ≤ s32 s.argLo ∧ t = ({ s with interval := s.argLo }).finish) ∨
        (IsGenerate i ∧ ∃ f, t = s.generateAt f) ∨ (IsVerify i ∧ ∃ c, t = s.verifyAt c)) := by
  cases i
  case setSecret =>
    refine ⟨_, rfl, ?_⟩
    split
    · exact .inl ⟨_, rfl⟩
    · next h => exact .inr (.inl ⟨rfl, by simpa [State.argUnsigned] using h, rfl⟩)
  case setAlgorithm =>
    refine ⟨_, rfl, ?_⟩
    split
    · exact .inl ⟨_, rfl⟩
    · next a h =>
      split
      · exact .inl ⟨_, rfl⟩
      · exact .inr (.inr (.inl ⟨rfl, a, h, rfl⟩))
  case setPasswordLength =>
    refine ⟨_, rfl, ?_⟩
    split
    · exact .inl ⟨_, rfl⟩
    · split
      · exact .inl ⟨_, rfl⟩
      · next h h' =>
        simp only [State.argSigned] at h h'
        exact .inr (.inr (.inr (.inl ⟨rfl, by omega, by omega, rfl⟩)))
  case setWindowSize =>
    refine ⟨_, rfl, ?_⟩
    split
    · exact .inl ⟨_, rfl⟩
    · next h =>
      simp only [State.argSigned] at h
      exact .inr (.inr (.inr (.inr (.inl ⟨rfl, by omega, rfl⟩))))
  case setInterval =>
    refine ⟨_, rfl, ?_⟩
    split
    · exact .inl ⟨_, rfl⟩
    · next h =>
      simp only [State.argSigned] at h
      exact .inr (.inr (.inr (.inr (.inr (.inl ⟨rfl, by omega, rfl⟩)))))
  case hotpGenerate => exact ⟨_, rfl, .inr (.inr (.inr (.inr (.inr (.inr (.inl ⟨by simp [IsGenerate], _, rfl⟩))))))⟩
  case totpGenerate => exact ⟨_, rfl, .inr (.inr (.inr (.inr (.inr (.inr (.inl ⟨by simp [IsGenerate], _, rfl⟩))))))⟩
  case totpGenerateNow => exact ⟨_, rfl, .inr (.inr (.inr (.inr (.inr (.inr (.inl ⟨by simp [IsGenerate], _, rfl⟩))))))⟩
  case hotpVerify => exact ⟨_, rfl, .inr (.inr (.inr (.inr (.inr (.inr (.inr ⟨by simp [IsVerify], _, rfl⟩))))))⟩
  case totpVerify => exact ⟨_, rfl, .inr (.inr (.inr (.inr (.inr (.inr (.inr ⟨by simp [IsVerify], _, rfl⟩))))))⟩
  case totpVerifyNow => exact ⟨_, rfl, .inr (.inr (.inr (.inr (.inr (.inr (.inr ⟨by simp [IsVerify], _, rfl⟩))))))⟩

/-- A completion answers a next state: the meaning of the command, or IllegalCommand. -/
theorem completion_cases (s : State) :
    (∃ i, decode s.pend = .ok i ∧ completion s = exec i s) ∨
      (∃ e, decode s.pend = .error e ∧ completion s = .next (s.raiseError .illegalCommand)) := by
  unfold completion
  split
  · next i h => exact .inl ⟨i, h, rfl⟩
  · next e h => exact .inr ⟨e, h, rfl⟩

/-- Every completion answers a next state. -/
theorem completion_next (s : State) : ∃ t, completion s = .next t := by
  rcases completion_cases s with ⟨i, -, h⟩ | ⟨e, -, h⟩
  · obtain ⟨t, ht, -⟩ := exec_cases i s
    exact ⟨t, h.trans ht⟩
  · exact ⟨_, h⟩

/-- The cases of a step that answers a next state: the engine's completion, a move of the engine while IDLE, a host
access, or reset. -/
theorem step_cases {s t : State} (h : step s = .next t) :
    s.params.wellFormed = true ∧ ∃ s₀ : State,
      ((s.inputs = [] ∧ s₀ = s) ∨ ∃ m rest, s.inputs = m :: rest ∧ s₀ = s.withInputs rest) ∧
      ((s.phase = .busy ∧ (s.inputs = [] ∨ ∃ rest, s.inputs = .engine :: rest) ∧ completion s₀ = .next t) ∨
        (s.phase = .idle ∧ (s.inputs = [] ∨ ∃ rest, s.inputs = .engine :: rest) ∧ t = s₀) ∨
        (∃ a now rest, s.inputs = .access a now :: rest ∧ performAccess a now s₀ = .next t) ∨
        (∃ rest, s.inputs = .reset :: rest ∧ t = s₀.resetBlock)) := by
  unfold step at h
  split at h
  · next hw =>
    refine ⟨hw, ?_⟩
    unfold nextMove at h
    have engine : ∀ s₀ : State, s₀.phase = s.phase → engineMove s₀ = .next t →
        (s.phase = .busy ∧ completion s₀ = .next t) ∨ (s.phase = .idle ∧ t = s₀) := by
      intro s₀ hp he
      unfold engineMove at he
      split at he
      · next hb => exact .inl ⟨by simpa [State.busy, hp] using hb, he⟩
      · next hb =>
        refine .inr ⟨?_, by simpa using he.symm⟩
        cases hq : s.phase
        · rfl
        · simp [State.busy, hp, hq] at hb
    split at h
    · next hi =>
      refine ⟨s, .inl ⟨hi, rfl⟩, ?_⟩
      rcases engine s rfl h with ⟨hp, hc⟩ | ⟨hp, hc⟩
      · exact .inl ⟨hp, .inl hi, hc⟩
      · exact .inr (.inl ⟨hp, .inl hi, hc⟩)
    · next m rest hi =>
      refine ⟨s.withInputs rest, .inr ⟨m, rest, hi, rfl⟩, ?_⟩
      cases m with
      | engine =>
        rcases engine (s.withInputs rest) rfl h with ⟨hp, hc⟩ | ⟨hp, hc⟩
        · exact .inl ⟨hp, .inr ⟨rest, hi⟩, hc⟩
        · exact .inr (.inl ⟨hp, .inr ⟨rest, hi⟩, hc⟩)
      | access a now => exact .inr (.inr (.inl ⟨a, now, rest, hi, h⟩))
      | reset => exact .inr (.inr (.inr ⟨rest, hi, by simpa [agentMove] using h.symm⟩))
  · simp at h

/-- The ranges of legal parameters. -/
theorem wf_bounds {p : Params} (h : p.wellFormed = true) :
    8 ≤ p.maxDigits ∧ p.maxDigits ≤ 64 ∧ 64 ≤ p.maxKeyBytes ∧ p.maxKeyBytes ≤ 256 := by
  simp only [Params.wellFormed, Params.digitsLegal, Params.keyBytesLegal, Bool.and_eq_true, decide_eq_true_eq] at h
  omega

/-- No completion changes the parameters. -/
theorem completion_params {s t : State} (h : completion s = .next t) : t.params = s.params := by
  rcases completion_cases s with ⟨i, -, hc⟩ | ⟨e, -, hc⟩
  · obtain ⟨u, hu, hcase⟩ := exec_cases i s
    rw [hc, hu] at h
    injection h with h; subst h
    rcases hcase with ⟨e, rfl⟩ | ⟨-, -, rfl⟩ | ⟨-, a, -, rfl⟩ | ⟨-, -, -, rfl⟩ | ⟨-, -, rfl⟩ | ⟨-, -, rfl⟩ |
      ⟨-, f, rfl⟩ | ⟨-, f, rfl⟩ <;> simp
  · rw [hc] at h
    injection h with h; subst h; simp

/-- No write changes the parameters. -/
theorem memWrite_params (s : State) (o : Nat) (v : Word) (now : DWord) : (s.memWrite o v now).params = s.params := by
  cases hp : s.phase
  · rcases memWrite_idle hp o v now with h | ⟨-, h⟩ | h | h | h | ⟨i, h⟩ | ⟨i, h⟩ <;> simp [h, setBufWord_eq]
  · rcases memWrite_busy hp o v now with h | h <;> rw [h]; all_goals simp

/-- No step changes the parameters. -/
theorem step_params {s t : State} (h : step s = .next t) : t.params = s.params := by
  obtain ⟨-, s₀, hs, hc⟩ := step_cases h
  have hp : s₀.params = s.params := by rcases hs with ⟨-, rfl⟩ | ⟨m, rest, -, rfl⟩ <;> rfl
  rw [← hp]
  rcases hc with ⟨-, -, hc⟩ | ⟨-, -, rfl⟩ | ⟨a, now, rest, -, hc⟩ | ⟨rest, -, rfl⟩
  · exact completion_params hc
  · rfl
  · rcases performAccess_cases hc with ⟨-, rfl⟩ | ⟨v, -, rfl⟩
    · rfl
    · exact memWrite_params _ _ _ _
  · rfl

/-- A step whose next move is a host access. -/
theorem step_access {s : State} {a : Access} {now : DWord} {rest : List Input} (hw : s.params.wellFormed = true)
    (hi : s.inputs = .access a now :: rest) : step s = performAccess a now (s.withInputs rest) := by
  simp [step, hw, nextMove, hi, agentMove]

/-- A step whose next move is the engine's. -/
theorem step_engine {s : State} {rest : List Input} (hw : s.params.wellFormed = true) (hi : s.inputs = .engine :: rest) :
    step s = engineMove (s.withInputs rest) := by
  simp [step, hw, nextMove, hi, agentMove]

/-- A step with no move of another agent to come is the engine's. -/
theorem step_nil {s : State} (hw : s.params.wellFormed = true) (hi : s.inputs = []) : step s = engineMove s := by
  simp [step, hw, nextMove, hi]

/-- The engine completes while BUSY. -/
theorem engineMove_busy {s : State} (h : s.phase = .busy) : engineMove s = completion s := by
  simp [engineMove, h]

/-- The engine takes no step while IDLE. -/
theorem engineMove_idle {s : State} (h : s.phase = .idle) : engineMove s = .next s := by
  simp [engineMove, h]

/-- A run whose first step answers a next state. -/
theorem run_next (n : Nat) {s t : State} (h : step s = .next t) :
    Host.Core.run Sys2Proof.core (n + 1) s = Host.Core.run Sys2Proof.core n t := by
  simp only [Host.Core.run, Sys2Proof.core, h]

/-- The secret depends on KEY_LEN and the KEY bytes below it. -/
theorem secret_congr {s t : State} (hl : t.keyLen = s.keyLen)
    (hb : ∀ i < s.keyLen.toNat, t.bufByte .key i = s.bufByte .key i) : t.secret = s.secret := by
  rw [State.secret, State.secret, hl]
  exact List.map_congr_left fun i hi => hb i (List.mem_range.1 hi)

/-- A code depends on the algorithm, the secret and DIGITS. -/
theorem codeAt_congr {s t : State} (ha : t.alg = s.alg) (hs : t.secret = s.secret) (hd : t.digits = s.digits)
    (f : DWord) : t.codeAt f = s.codeAt f := by
  rw [State.codeAt, State.codeAt, ha, hs, hd]

/-- A match depends on the algorithm, the secret, DIGITS, the candidate and WINDOW. -/
theorem matchesAt_congr {s t : State} (ha : t.alg = s.alg) (hs : t.secret = s.secret) (hd : t.digits = s.digits)
    (hc : t.candidate = s.candidate) (hw : t.window = s.window) (c : DWord) : t.matchesAt c = s.matchesAt c := by
  rw [State.matchesAt, State.matchesAt, ha, hs, hd, hc, hw]

/-- The end of a command's completion: IDLE and DONE. -/
theorem completion_done {s t : State} (h : completion s = .next t) : t.phase = .idle ∧ t.status.done = true := by
  rcases completion_cases s with ⟨i, -, hc⟩ | ⟨e, -, hc⟩
  · obtain ⟨u, hu, hcase⟩ := exec_cases i s
    rw [hc, hu] at h
    injection h with h; subst h
    rcases hcase with ⟨e, rfl⟩ | ⟨-, -, rfl⟩ | ⟨-, a, -, rfl⟩ | ⟨-, -, -, rfl⟩ | ⟨-, -, rfl⟩ | ⟨-, -, rfl⟩ |
      ⟨-, f, rfl⟩ | ⟨-, f, rfl⟩ <;> simp [Status.completed]
  · rw [hc] at h
    injection h with h; subst h; simp [Status.completed]

/-- Writing a word into a buffer twice is writing it once. -/
theorem setBufWord_twice (b : Buffer) (i : Nat) (v : Word) {s : State} (hm : s.mem.wf) :
    (s.setBufWord b i v).setBufWord b i v = s.setBufWord b i v := by
  have hmem : ((s.setBufWord b i v).setBufWord b i v).mem = (s.setBufWord b i v).mem := by
    refine wf_ext (setBufWord_wf _ _ _ (setBufWord_wf _ _ _ hm)) (setBufWord_wf _ _ _ hm) fun a => ?_
    by_cases ha : ∀ j < 4, a = b.base + (i + j) → ¬(i + j < b.cap s.params)
    · rw [setBufWord_read_other _ _ _ _ (by simpa using ha)]
    · push Not at ha
      obtain ⟨j, hj, rfl, hc⟩ := ha
      rw [setBufWord_read_same _ _ _ (setBufWord_wf _ _ _ hm) hj (by simpa using hc),
        setBufWord_read_same _ _ _ hm hj hc]
  have e : ∀ t : State, t.setBufWord b i v = { t with mem := (t.setBufWord b i v).mem } := fun t => (rfl)
  rw [e (s.setBufWord b i v), hmem]

end Sys2Proof.Machine
end

