-- ==== Sys2Proof/Laws/Datapath.lean ====
section
/-! SUPPORT. The small laws of the byte and hash helpers. -/

namespace Sys2Proof.Machine

@[simp] theorem length_bytesBE (n : Nat) {w : Nat} (x : BitVec w) : (bytesBE n x).length = n := by simp [bytesBE]

/-- Byte `k` of a big-endian encoding. -/
theorem getD_bytesBE {n k : Nat} (h : k < n) {w : Nat} (x : BitVec w) :
    (bytesBE n x).getD k 0 = x.extractLsb' (8 * (n - 1 - k)) 8 := by simp [bytesBE, h]

/-- The first `n` chunks of `b` bytes, put together, are the first `n * b` bytes. -/
theorem flatten_chunks (b n : Nat) (p : List Byte) :
    ((List.range n).map fun i => (p.drop (i * b)).take b).flatten = p.take (n * b) := by
  induction n with
  | zero => simp
  | succ n ih => rw [List.range_succ, List.map_append, List.flatten_append, ih, Nat.succ_mul, List.take_add]; simp

/-- The blocks of whole blocks, put together, are the bytes they were cut from. -/
theorem flatten_blocksOf {b : Nat} {p : List Byte} (h : p.length % b = 0) : (blocksOf b p).flatten = p := by
  rw [blocksOf, flatten_chunks, Nat.div_mul_cancel (Nat.dvd_of_mod_eq_zero h), List.take_length]

/-- Every block is full. -/
theorem length_of_mem_blocksOf {b : Nat} {p blk : List Byte} (h : blk ∈ blocksOf b p) : blk.length = b := by
  obtain ⟨i, hi, rfl⟩ := List.mem_map.1 h
  have h1 : (i + 1) * b ≤ p.length / b * b := Nat.mul_le_mul_right b (List.mem_range.1 hi)
  have h2 := Nat.div_mul_le_self p.length b
  rw [Nat.succ_mul] at h1
  simp; omega

theorem wordBE_append (w : Nat) (bs : List Byte) (b : Byte) :
    wordBE w (bs ++ [b]) = (wordBE w bs <<< 8) ||| b.setWidth w := by simp [wordBE]

/-- Byte `j` of a composed word, the most significant first. -/
theorem extract_wordBE {w : Nat} (bs : List Byte) (hw : 8 * bs.length ≤ w) (j : Nat) (hj : j < bs.length) :
    (wordBE w bs).extractLsb' (8 * (bs.length - 1 - j)) 8 = bs.getD j 0 := by
  induction bs using List.reverseRecOn with
  | nil => simp at hj
  | append_singleton bs b ih =>
    simp only [List.length_append, List.length_singleton] at hw hj ⊢
    rw [wordBE_append]
    by_cases he : j = bs.length
    · subst he
      ext i hi
      have : i < w := by omega
      simp [hi, this]
    · rw [List.getD_append _ _ _ _ (by omega), ← ih (by omega) (by omega)]
      ext i hi
      have h1 : 8 * (bs.length + 1 - 1 - j) + i - 8 = 8 * (bs.length - 1 - j) + i := by omega
      have h3 : 8 * (bs.length + 1 - 1 - j) + i < w := by omega
      have h2 : ¬ 8 * (bs.length + 1 - 1 - j) + i < 8 := by omega
      simp only [BitVec.getElem_extractLsb', BitVec.getLsbD_or, BitVec.getLsbD_shiftLeft, BitVec.getLsbD_setWidth, h1, h2, h3]
      rw [BitVec.getLsbD_of_ge b _ (by omega)]
      simp

@[simp] theorem length_blockWords (w n : Nat) (block : List Byte) : (blockWords w n block).length = 16 := by
  simp [blockWords]

/-- Byte `j` of word `t` of a block. -/
theorem getD_blockWords {w n : Nat} {block : List Byte} (hl : block.length = 16 * n) (hw : 8 * n ≤ w) {t j : Nat}
    (ht : t < 16) (hj : j < n) :
    ((blockWords w n block).getD t 0).extractLsb' (8 * (n - 1 - j)) 8 = block.getD (n * t + j) 0 := by
  have hle : (t + 1) * n ≤ 16 * n := Nat.mul_le_mul_right n ht
  rw [Nat.succ_mul] at hle
  have hlen : ((block.drop (t * n)).take n).length = n := by simp; omega
  have := extract_wordBE (w := w) ((block.drop (t * n)).take n) (by rw [hlen]; exact hw) j (by rw [hlen]; exact hj)
  rw [hlen] at this
  have e : (blockWords w n block).getD t 0 = wordBE w ((block.drop (t * n)).take n) := by
    simp [blockWords, ht]
  rw [e, this, Nat.mul_comm n t]
  simp [hj]

@[simp] theorem length_render (c n : Nat) : (render c n).length = n := by simp [render]

/-- Digit `k` of a rendered code. -/
theorem getD_render {c n k : Nat} (h : k < n) :
    (render c n).getD k 0 = BitVec.ofNat 8 (0x30 + c / 10 ^ (n - 1 - k) % 10) := by simp [render, h]

/-- Rotating right by less than the width is the library's rotation. -/
theorem rotr_eq {w n : Nat} (h : n < w) (x : BitVec w) : rotr n x = x.rotateRight n := by
  rw [BitVec.rotateRight_def, Nat.mod_eq_of_lt h, rotr]

/-- Rotating left by a positive amount below the width is the library's rotation. -/
theorem rotl_eq {w n : Nat} (h0 : 0 < n) (h : n < w) (x : BitVec w) : rotl n x = x.rotateLeft n := by
  rw [BitVec.rotateLeft_def, Nat.mod_eq_of_lt h, rotl, rotr, show w - (w - n) = n by omega, BitVec.or_comm]

/-- A schedule grows by one word for each extension. -/
@[simp] theorem length_extendSchedule {w : Nat} (next : List (BitVec w) → BitVec w) (k : Nat) (ws : List (BitVec w)) :
    (extendSchedule next k ws).length = k + ws.length := by
  induction k generalizing ws with
  | zero => simp [extendSchedule]
  | succ k ih => rw [extendSchedule, ih]; simp; omega

/-- Bytewise exclusive-or with a repeated byte. -/
theorem zipWith_xor_replicate (bs : List Byte) (p : Byte) :
    List.zipWith (· ^^^ ·) bs (List.replicate bs.length p) = xorPad bs p := by
  induction bs with
  | nil => rfl
  | cons b bs ih => simp only [List.length_cons, List.replicate_succ, List.zipWith_cons_cons, ih]; rfl

/-- What the words of an extended schedule are, read oldest first: the words it began with, then at position `t` the
word that `next` makes of the `t` words before it. -/
theorem getD_extendSchedule {w : Nat} (next : List (BitVec w) → BitVec w) (k : Nat) (ws : List (BitVec w)) :
    (∀ t < ws.length, (extendSchedule next k ws).reverse.getD t 0 = ws.reverse.getD t 0) ∧
      ∀ t, ws.length ≤ t → t < k + ws.length → ∃ us : List (BitVec w), us.length = t ∧
        (∀ j < t, us.getD (t - 1 - j) 0 = (extendSchedule next k ws).reverse.getD j 0) ∧
        (extendSchedule next k ws).reverse.getD t 0 = next us := by
  induction k generalizing ws with
  | zero => exact ⟨fun t _ => rfl, fun t h1 h2 => by omega⟩
  | succ k ih =>
    obtain ⟨h1, h2⟩ := ih (next ws :: ws)
    have old : ∀ t < ws.length, (next ws :: ws).reverse.getD t 0 = ws.reverse.getD t 0 := by
      intro t ht
      rw [List.reverse_cons, List.getD_eq_getElem?_getD, List.getD_eq_getElem?_getD,
        List.getElem?_append_left (by simpa using ht)]
    rw [extendSchedule]
    refine ⟨fun t ht => (h1 t (by simp; omega)).trans (old t ht), fun t ht ht' => ?_⟩
    by_cases he : t = ws.length
    · subst he
      refine ⟨ws, rfl, fun j hj => ?_, ?_⟩
      · rw [h1 j (by simp; omega), old j hj, List.getD_eq_getElem _ _ (show ws.length - 1 - j < ws.length by omega)]
        simp [hj]
      · rw [h1 _ (by simp)]; simp
    · exact h2 t (by simp; omega) (by simp; omega)

/-- The SHA-1 rounds, by their number. -/
theorem sha1Rounds_eq (ws : List Word) (t : Nat) (h : Sha1Value) :
    sha1Rounds t ws h = (List.range ws.length).foldl (fun v j => sha1Round (t + j) (ws.getD j 0) v) h := by
  induction ws generalizing t h with
  | nil => rfl
  | cons a ws ih =>
    rw [sha1Rounds, ih, List.length_cons, List.range_succ_eq_map, List.foldl_cons, List.foldl_map]
    congr 1
    funext v j
    simp [Nat.add_assoc, Nat.add_comm 1 j]

/-- The SHA-2 rounds, by their number. -/
theorem sha2Rounds_eq {w : Nat} (v : Sha2Variant w) (ks ws : List (BitVec w)) (hl : ks.length = ws.length)
    (h : Sha2Value w) :
    sha2Rounds v ks ws h =
      (List.range ws.length).foldl (fun s j => sha2Round v (ks.getD j 0) (ws.getD j 0) s) h := by
  induction ws generalizing ks h with
  | nil => cases ks <;> simp_all [sha2Rounds]
  | cons a ws ih =>
    cases ks with
    | nil => simp at hl
    | cons k ks =>
      rw [sha2Rounds, ih ks (by simpa using hl), List.length_cons, List.range_succ_eq_map, List.foldl_cons,
        List.foldl_map]
      congr 1

/-- An integer root rounds down. -/
theorem integerRoot_bounds (e x k r : Nat) (h1 : r ^ e ≤ x) (h2 : x < (r + 2 ^ k) ^ e) :
    (integerRoot e x k r) ^ e ≤ x ∧ x < (integerRoot e x k r + 1) ^ e := by
  induction k generalizing r with
  | zero => exact ⟨h1, h2⟩
  | succ k ih =>
    rw [integerRoot]
    split
    · next h => exact ih _ h (by rw [Nat.add_assoc, ← two_mul, ← pow_succ']; exact h2)
    · next h => exact ih _ h1 (by omega)

/-- The big-endian bytes of a number. -/
theorem bytesBE_ofNat (n x : Nat) :
    bytesBE n (BitVec.ofNat (8 * n) x) = (List.range n).map fun k => BitVec.ofNat 8 (x / 256 ^ (n - 1 - k)) := by
  unfold bytesBE
  refine List.map_congr_left fun k hk => ?_
  have hk := List.mem_range.1 hk
  apply BitVec.eq_of_getLsbD_eq
  intro j hj
  rw [BitVec.getLsbD_extractLsb']
  simp only [hj, decide_true, Bool.true_and, BitVec.getLsbD_ofNat]
  rw [show (256 : Nat) = 2 ^ 8 by rfl, ← pow_mul, Nat.testBit_div_two_pow, Nat.add_comm]
  simp; omega

/-- The factor of an offset is the 64-bit counter at that distance, if there is one. -/
theorem windowFactor_eq_some {c f : DWord} {o : Int} :
    windowFactor c o = some f ↔ (f.toNat : Int) = (c.toNat : Int) + o := by
  have hf := f.isLt
  unfold windowFactor
  constructor
  · intro h
    split at h
    · next hr =>
      injection h with h; subst h
      rw [BitVec.toNat_ofInt, Int.emod_eq_of_lt hr.1 (by simpa using hr.2), Int.toNat_of_nonneg hr.1]
    · simp at h
  · intro h
    rw [← h, if_pos (by omega)]
    simp

/-- What the comparison of a candidate with a password says. -/
theorem candidateEq_iff {cand : Candidate} {n : Nat} {pw : List Byte} :
    candidateEq cand n pw = true ↔ cand.len = n ∧ ∀ k < n, cand.bytes.getD k 0 = pw.getD k 0 := by
  simp [candidateEq]

/-- A time-step counter as a number. -/
theorem counterOf_toNat {i : Word} (h : i ≠ 0) (t : DWord) : (counterOf t i).toNat = t.toNat / i.toNat := by
  rw [counterOf, if_neg h, BitVec.toNat_ofNat, Nat.mod_eq_of_lt (lt_of_le_of_lt (Nat.div_le_self _ _) t.isLt)]

end Sys2Proof.Machine
end

