-- ==== Sys2Proof/Laws/PerInstr.lean ====
section
/-! SUPPORT. What holds of every command's encoding, per command (spec/30_encoding.md R90, R91). -/

namespace Sys2Proof.Laws.EncodingReserved

/-- The word of a command has RSV = 0 and its own OPCODE. -/
def Statement (i : Instr) : Prop := rsvField (encode i) = 0 ∧ opcodeField (encode i) = i.opcode

theorem setSecret : Statement .setSecret := by unfold Statement; decide
theorem setAlgorithm : Statement .setAlgorithm := by unfold Statement; decide
theorem setPasswordLength : Statement .setPasswordLength := by unfold Statement; decide
theorem setWindowSize : Statement .setWindowSize := by unfold Statement; decide
theorem setInterval : Statement .setInterval := by unfold Statement; decide
theorem hotpGenerate : Statement .hotpGenerate := by unfold Statement; decide
theorem hotpVerify : Statement .hotpVerify := by unfold Statement; decide
theorem totpGenerate : Statement .totpGenerate := by unfold Statement; decide
theorem totpVerify : Statement .totpVerify := by unfold Statement; decide
theorem totpGenerateNow : Statement .totpGenerateNow := by unfold Statement; decide
theorem totpVerifyNow : Statement .totpVerifyNow := by unfold Statement; decide

end Sys2Proof.Laws.EncodingReserved
end

