-- ==== Sys2Proof/Machine/HostProgram.lean ====
section
/-! DEFINITION. The host program notation of spec/30_encoding.md R100 and R101, each line expanded into the
moves it stands for; the block sees only those moves. A model's notation, not state of the block. -/

namespace Sys2Proof.Machine

/-- The lines of a host program (30_encoding.md R100, R101). -/
inductive HostLine where
  /-- `W <reg>, <value>`. -/
  | writeReg (r : Reg) (v : Word)
  /-- `W KEY+<n>, <value>` or `W CAND+<n>, <value>`. -/
  | writeBuf (b : Buffer) (n : Nat) (v : Word)
  /-- `R <reg>`. -/
  | readReg (r : Reg)
  /-- `R KEY+<n>`, `R CAND+<n>` or `R RESULT+<n>`. -/
  | readBuf (b : Buffer) (n : Nat)
  /-- `C <mnemonic>`. -/
  | command (i : Instr)
  /-- `WAIT`: `polls` reads of STATUS that return BUSY, then the completion, then the read that ends the loop.
  The number of polls is not determined (70_reset_and_hazards.md R309). -/
  | wait (polls : Nat)
  /-- `SETARG v`. -/
  | setArg (v : DWord)
  /-- `DO <mnemonic>`. -/
  | perform (i : Instr) (polls : Nat)
  /-- `SETKEY s`. -/
  | setKey (bytes : List Byte) (polls : Nat)
  /-- `SETCAND s`. -/
  | setCand (bytes : List Byte)
  deriving DecidableEq, Repr

/-- A 32-bit access at an offset of the block at BASE_ADDR. -/
def hostAccess (p : Params) (now : DWord) (o : Nat) (k : AccessKind) : Input :=
  .access { addr := p.baseAddr + o, width := 4, kind := k } now

/-- `W <reg>, <value>` (30_encoding.md R100). -/
def hostWrite (p : Params) (now : DWord) (r : Reg) (v : Word) : Input := hostAccess p now r.offset (.write v)

/-- `WAIT` (30_encoding.md R100). -/
def hostWait (p : Params) (now : DWord) (polls : Nat) : List Input :=
  List.replicate polls (hostAccess p now Reg.status.offset .read) ++
    [.engine, hostAccess p now Reg.status.offset .read]

/-- `SETARG v` (30_encoding.md R101). -/
def hostSetArg (p : Params) (now : DWord) (v : DWord) : List Input :=
  [hostWrite p now .argLo (v.extractLsb' 0 32), hostWrite p now .argHi (v.extractLsb' 32 32)]

/-- `DO <mnemonic>`: `C <mnemonic>` and `WAIT` (30_encoding.md R101). -/
def hostPerform (p : Params) (now : DWord) (i : Instr) (polls : Nat) : List Input :=
  hostWrite p now .cmd (encode i) :: hostWait p now polls

/-- A byte string written into a window, four bytes a word, little-endian, the last word padded with 0x00
(30_encoding.md R101). -/
def hostWriteBytes (p : Params) (now : DWord) (b : Buffer) (bytes : List Byte) : List Input :=
  (List.range ((bytes.length + 3) / 4)).map fun n =>
    hostAccess p now (b.base + 4 * n) (.write (wordOfBytes fun j => bytes.getD (4 * n + j) 0))

/-- The moves a line stands for, while NOW_IN carries `now` (30_encoding.md R100, R101). -/
def HostLine.expand (p : Params) (now : DWord) : HostLine → List Input
  | .writeReg r v => [hostWrite p now r v]
  | .writeBuf b n v => [hostAccess p now (b.base + n) (.write v)]
  | .readReg r => [hostAccess p now r.offset .read]
  | .readBuf b n => [hostAccess p now (b.base + n) .read]
  | .command i => [hostWrite p now .cmd (encode i)]
  | .wait polls => hostWait p now polls
  | .setArg v => hostSetArg p now v
  | .perform i polls => hostPerform p now i polls
  | .setKey bytes polls =>
    hostWriteBytes p now .key bytes ++ hostSetArg p now (BitVec.ofNat 64 bytes.length) ++
      hostPerform p now .setSecret polls
  | .setCand bytes =>
    hostWriteBytes p now .cand bytes ++ [hostWrite p now .candLen (BitVec.ofNat 32 bytes.length)]

end Sys2Proof.Machine
end

