-- ==== Sys2Proof/Tests/Slice0.lean ====
section
/-! SUPPORT. The model's own tests, each on values that spec/ gives (95_test_vectors.md unless said otherwise), and
for every obligation with hypotheses a witness that meets them. -/

namespace Sys2Proof.Tests

open Sys2Proof Sys2Proof.Machine

/-! ### Helpers -/

/-- The outcome is a next state with the property. -/
def holds (o : Host.Outcome State Fault Refusal) (p : State → Bool) : Bool :=
  match o with
  | .next t => p t
  | .fault _ => false
  | .refused _ => false

def faultsWith (f : Fault) (o : Host.Outcome State Fault Refusal) : Bool :=
  match o with
  | .next _ => false
  | .fault g => g == f
  | .refused _ => false

def refusesWith (r : Refusal) (o : Host.Outcome State Fault Refusal) : Bool :=
  match o with
  | .next _ => false
  | .fault _ => false
  | .refused q => q == r

/-- The reset state with ARG_LO, ARG_HI set. -/
def withArg (lo hi : Word) : State := { State.reset with argLo := lo, argHi := hi }

/-- "1234567890" repeated, `n` bytes (section 1.1, 1.3). -/
def digitsKey (n : Nat) : List Byte := (List.range n).map fun i => BitVec.ofNat 8 (0x30 + (i + 1) % 10)

/-- The reset state with a secret, an algorithm, DIGITS and ARG64. -/
def keyed (key : List Byte) (a : Alg) (digits arg : Nat) : State :=
  { State.reset with
    alg := a, digits := BitVec.ofNat 32 digits, keyLen := BitVec.ofNat 32 key.length
    argLo := BitVec.ofNat 32 arg, argHi := BitVec.ofNat 32 (arg / 2 ^ 32)
    mem := Memory.writeBytes [] 0x100 key }

/-- A candidate of ASCII digits. -/
def presented (digits : List Nat) (s : State) : State :=
  { s with
    candLen := BitVec.ofNat 32 digits.length
    mem := s.mem.writeBytes 0x200 (digits.map fun d => BitVec.ofNat 8 (0x30 + d)) }

/-- One step that runs the command word `w`. -/
def runWord (w : Nat) (s : State) : Host.Outcome State Fault Refusal := step (s.withFetchWord 32 w)

/-- A BUSY state with the command word `w` accepted. -/
def busyWith (w : Word) : State := State.reset.accept w 0

/-- The reset state with one host write, one host read, to come. -/
def writing (o : Nat) (v : Word) (s : State) : State :=
  s.withInputs [.access (wordAccess s.params o (.write v)) 0]

def reading (o : Nat) (s : State) : State := s.withInputs [.access (wordAccess s.params o .read) 0]

/-! ### Well-formedness: an ill-formed term for each check -/

theorem test_wellFormed_default : Config.defaultParams.wellFormed = true := by decide
theorem test_wellFormed_bounds :
    ({ baseAddr := 0x1000, maxDigits := 8, maxKeyBytes := 64 } : Params).wellFormed = true ∧
    ({ baseAddr := 0xFFFFF000, maxDigits := 64, maxKeyBytes := 256 } : Params).wellFormed = true := by decide
theorem test_illFormed_base : ({ baseAddr := 4, maxDigits := 10, maxKeyBytes := 128 } : Params).wellFormed = false := by
  decide
theorem test_illFormed_digits :
    ({ baseAddr := 0, maxDigits := 7, maxKeyBytes := 128 } : Params).wellFormed = false ∧
    ({ baseAddr := 0, maxDigits := 65, maxKeyBytes := 128 } : Params).wellFormed = false := by decide
theorem test_illFormed_keyBytes :
    ({ baseAddr := 0, maxDigits := 10, maxKeyBytes := 63 } : Params).wellFormed = false ∧
    ({ baseAddr := 0, maxDigits := 10, maxKeyBytes := 257 } : Params).wellFormed = false := by decide
theorem test_illFormed_refused :
    refusesWith .parameterOutOfRange (step (State.resetWith { baseAddr := 0, maxDigits := 7, maxKeyBytes := 128 })) =
      true := by decide

/-! ### Decoding: RSV in [31:8], OPCODE in [7:0] (30_encoding.md R90, R91), written out -/

theorem test_decode_setSecret : decode (0b000000000000000000000000#24 ++ 0b00000001#8) = .ok .setSecret := by decide
theorem test_decode_setAlgorithm : decode (0b000000000000000000000000#24 ++ 0b00000010#8) = .ok .setAlgorithm := by decide
theorem test_decode_setPasswordLength :
    decode (0b000000000000000000000000#24 ++ 0b00000011#8) = .ok .setPasswordLength := by decide
theorem test_decode_setWindowSize :
    decode (0b000000000000000000000000#24 ++ 0b00000100#8) = .ok .setWindowSize := by decide
theorem test_decode_setInterval : decode (0b000000000000000000000000#24 ++ 0b00000101#8) = .ok .setInterval := by decide
theorem test_decode_hotpGenerate :
    decode (0b000000000000000000000000#24 ++ 0b00010000#8) = .ok .hotpGenerate := by decide
theorem test_decode_hotpVerify : decode (0b000000000000000000000000#24 ++ 0b00010001#8) = .ok .hotpVerify := by decide
theorem test_decode_totpGenerate :
    decode (0b000000000000000000000000#24 ++ 0b00100000#8) = .ok .totpGenerate := by decide
theorem test_decode_totpVerify : decode (0b000000000000000000000000#24 ++ 0b00100001#8) = .ok .totpVerify := by decide
theorem test_decode_totpGenerateNow :
    decode (0b000000000000000000000000#24 ++ 0b00100010#8) = .ok .totpGenerateNow := by decide
theorem test_decode_totpVerifyNow :
    decode (0b000000000000000000000000#24 ++ 0b00100011#8) = .ok .totpVerifyNow := by decide
theorem test_decodeTableWord : decodeTableWord 32 0x22 = some .totpGenerateNow ∧ decodeTableWord 32 0x110 = none ∧
    decodeTableWord 32 0x80000001 = none ∧ decodeTableWord 32 0xFF = none := by decide

/-- Section 2.9: illegal words, their STATUS, and nothing else changed. -/
theorem test_illegal_words :
    ∀ p ∈ ([(0x00000000, 0x00000606), (0x00000006, 0x00060606), (0x00000012, 0x00120606), (0x000000FF, 0x00FF0606),
        (0x00000110, 0x00100606), (0x80000001, 0x00010606)] : List (Nat × Word)),
      holds (runWord p.1 (withArg 20 1)) (fun t => t.statusWord == p.2 && t.phase == .idle && t.keyLen == 0 &&
        t.argLo == 20 && t.argHi == 1 && t.mem == []) = true := by decide

/-! ### The setters (section 2.8) -/

theorem test_setSecret_boundary : holds (runWord 0x01 (withArg 128 0xFFFFFFFF)) (fun t =>
    t.keyLen == 128 && t.statusWord == 0x00010002 && t.argHi == 0xFFFFFFFF) = true := by decide
theorem test_setSecret_tooLong : holds (runWord 0x01 (withArg 129 0)) (fun t =>
    t.keyLen == 0 && t.statusWord == 0x00010506) = true := by decide
theorem test_setAlgorithm_codes :
    holds (runWord 0x02 (withArg 1 0)) (fun t => t.alg == .sha256 && t.statusWord == 0x00020002) = true ∧
    holds (runWord 0x02 (withArg 2 0)) (fun t => t.alg == .sha512 && t.statusWord == 0x00020002) = true := by decide
theorem test_setAlgorithm_unsupported :
    holds (runWord 0x02 (withArg 3 0)) (fun t => t.alg == .sha1 && t.statusWord == 0x00020406) = true ∧
    holds (runWord 0x02 (withArg 0xFFFFFFFF 0)) (fun t => t.alg == .sha1 && t.statusWord == 0x00020406) = true := by
  decide
theorem test_setPasswordLength_boundary :
    holds (runWord 0x03 (withArg 1 0)) (fun t => t.digits == 1 && t.statusWord == 0x00030002) = true ∧
    holds (runWord 0x03 (withArg 10 0)) (fun t => t.digits == 10 && t.statusWord == 0x00030002) = true := by decide
theorem test_setPasswordLength_fails :
    holds (runWord 0x03 (withArg 0 0)) (fun t => t.digits == 6 && t.statusWord == 0x00030106) = true ∧
    holds (runWord 0x03 (withArg 11 0)) (fun t => t.digits == 6 && t.statusWord == 0x00030106) = true ∧
    holds (runWord 0x03 (withArg 0x80000000 0)) (fun t => t.digits == 6 && t.statusWord == 0x00030106) = true := by decide
theorem test_setWindowSize_boundary :
    holds (runWord 0x04 (withArg 0 0)) (fun t => t.window == 0 && t.statusWord == 0x00040002) = true ∧
    holds (runWord 0x04 (withArg 0x7FFFFFFF 0)) (fun t => t.window == 0x7FFFFFFF && t.statusWord == 0x00040002) =
      true := by decide
theorem test_setWindowSize_fails :
    holds (runWord 0x04 (withArg 0xFFFFFFFF 0)) (fun t => t.window == 1 && t.statusWord == 0x00040206) = true ∧
    holds (runWord 0x04 (withArg 0x80000000 0)) (fun t => t.window == 1 && t.statusWord == 0x00040206) = true := by decide
theorem test_setInterval_boundary :
    holds (runWord 0x05 (withArg 1 0)) (fun t => t.interval == 1 && t.statusWord == 0x00050002) = true ∧
    holds (runWord 0x05 (withArg 0x7FFFFFFF 0)) (fun t => t.interval == 0x7FFFFFFF && t.statusWord == 0x00050002) =
      true := by decide
theorem test_setInterval_fails :
    holds (runWord 0x05 (withArg 0 0)) (fun t => t.interval == 30 && t.statusWord == 0x00050306) = true ∧
    holds (runWord 0x05 (withArg 0xFFFFFFE2 0)) (fun t => t.interval == 30 && t.statusWord == 0x00050306) = true := by decide

/-! ### The hash functions (section 2.5) -/

theorem test_sha1_empty : sha1Hash [] =
    [0xda, 0x39, 0xa3, 0xee, 0x5e, 0x6b, 0x4b, 0x0d, 0x32, 0x55, 0xbf, 0xef, 0x95, 0x60, 0x18, 0x90, 0xaf, 0xd8, 0x07,
      0x09] := by decide +kernel
theorem test_sha256_empty : sha256Hash [] =
    bytesBE 32 (0xe3b0c44298fc1c149afbf4c8996fb92427ae41e4649b934ca495991b7852b855 : BitVec 256) := by decide +kernel
theorem test_sha512_empty : sha512Hash [] =
    bytesBE 64 (0xcf83e1357eefb8bdf1542850d66d8007d620e4050b5715dc83f4a921d36ce9ce47d0d13c5d85f2b0ff8318d2877eec2f63b931bd47417a81a538327af927da3e : BitVec 512) := by
  decide +kernel
/-- R149 against the transcribed R150 and R156. -/
theorem test_initial_values_follow_the_rule :
    h256Rule = [sha256Init.a, sha256Init.b, sha256Init.c, sha256Init.d, sha256Init.e, sha256Init.f, sha256Init.g,
      sha256Init.h] ∧
    h512Rule = [sha512Init.a, sha512Init.b, sha512Init.c, sha512Init.d, sha512Init.e, sha512Init.f, sha512Init.g,
      sha512Init.h] := by decide +kernel

/-! ### Generating and verifying -/

/-- Section 2.2: all 64 bits of the moving factor count, and the leading zero stays. -/
theorem test_hotpGenerate_fullCounter :
    holds (runWord 0x10 (keyed (digitsKey 20) .sha1 6 (2 ^ 64 - 1))) (fun t =>
      t.code == 94451 && t.memRead 0x240 == 0x34343930 && t.memRead 0x244 == 0x00003135 && t.memRead 0x248 == 0 &&
      t.lastCtrLo == 0xFFFFFFFF && t.lastCtrHi == 0xFFFFFFFF && t.statusWord == 0x00100002) = true := by decide +kernel
/-- Section 2.4: a key of 65 bytes is hashed first. -/
theorem test_hotpGenerate_longKey :
    hotpCode .sha1 ((List.range 65).map (BitVec.ofNat 8)) 0 6 = 337508 := by decide +kernel
/-- Section 2.6: factor -1 is skipped, and factor 1 matches. -/
theorem test_hotpVerify_matches :
    holds (runWord 0x11 (presented [2, 8, 7, 0, 8, 2] (keyed (digitsKey 20) .sha1 6 0))) (fun t =>
      t.statusWord == 0x0011000A && t.lastCtr == 0 && t.code == 0) = true := by decide +kernel
/-- Section 2.6: a candidate of another length never matches. -/
theorem test_hotpVerify_length :
    holds (runWord 0x11 (presented [0, 2, 8, 7, 0, 8, 2] (keyed (digitsKey 20) .sha1 6 1))) (fun t =>
      t.statusWord == 0x00110002 && t.lastCtr == 1) = true := by decide +kernel
/-- Section 1.3, the SHA-256 column. -/
theorem test_totpGenerate_sha256 :
    holds (runWord 0x20 (keyed (digitsKey 32) .sha256 8 59)) (fun t =>
      t.code == 46119246 && t.lastCtr == 1 && t.statusWord == 0x00200002) = true := by decide +kernel
/-- Section 1.3, the SHA-512 column, with the timestamp in NOW_LATCH. -/
theorem test_totpGenerateNow_sha512 :
    holds (runWord 0x22 { keyed (digitsKey 64) .sha512 8 7 with nowLatch := 59 }) (fun t =>
      t.code == 90693936 && t.lastCtr == 1 && t.statusWord == 0x00220002) = true := by decide +kernel
/-- Section 2.7: t = 119 is outside the tolerance of the code of counter 1. -/
theorem test_totpVerify_outside :
    holds (runWord 0x21 (presented [9, 4, 2, 8, 7, 0, 8, 2] (keyed (digitsKey 20) .sha1 8 119))) (fun t =>
      t.statusWord == 0x00210002 && t.lastCtr == 3) = true := by decide +kernel
/-- Section 2.7: NOW_IN = 89 is inside it. -/
theorem test_totpVerifyNow_inside :
    holds (runWord 0x23 { presented [9, 4, 2, 8, 7, 0, 8, 2] (keyed (digitsKey 20) .sha1 8 0) with nowLatch := 89 })
      (fun t => t.statusWord == 0x0023000A && t.lastCtr == 2) = true := by decide +kernel
/-- Section 2.1, counter 1: offset 11 and the sign-bit mask. -/
theorem test_dynTrunc :
    dynTrunc (bytesBE 20 (0x75a48a19d4cbe100644e8ac1397eea747a2d33ab : BitVec 160)) = 1094287082 := by decide
/-- Section 2.3: DIGITS = 10 keeps the leading zeros. -/
theorem test_render_leadingZeros :
    render 82162583 10 = [0x30, 0x30, 0x38, 0x32, 0x31, 0x36, 0x32, 0x35, 0x38, 0x33] := by decide
/-- Section 2.7, the counters. -/
theorem test_counterOf : counterOf 59 30 = 1 ∧ counterOf 60 30 = 2 ∧
    counterOf 0xFFFFFFFFFFFFFFFF 0x7FFFFFFF = 0x0000000200000004 ∧
    counterOf 0xFFFFFFFFFFFFFFFF 30 = 0x0888888888888888 := by
  refine ⟨?_, ?_, ?_, ?_⟩ <;> exact BitVec.eq_of_toNat_eq ((counterOf_toNat (by decide) _).trans (by decide))

/-! ### The bus (section 2.10) -/

theorem test_read_params : State.reset.memRead 0x034 = 0x0000800A := by decide
theorem test_read_cmd_and_unmapped :
    (busyWith 0x10).memRead 0x000 = 0 ∧ (busyWith 0x10).memRead 0x038 = 0 ∧ (busyWith 0x10).memRead 0xFFC = 0 := by decide
theorem test_window_write_packs_little_endian :
    (State.reset.memWrite 0x100 0x34333231 0).memRead 0x100 = 0x34333231 ∧
    (State.reset.memWrite 0x100 0x34333231 0).bufByte .key 0 = 0x31 := by decide
theorem test_window_write_at_capacity :
    (State.reset.memWrite 0x17C 0xAABBCCDD 0).memRead 0x17C = 0xAABBCCDD ∧
    (State.reset.memWrite 0x180 0x11111111 0) = State.reset ∧
    (State.reset.memWrite 0x208 0x39383736 0).memRead 0x208 = 0x00003736 := by decide
theorem test_read_only_writes_ignored :
    ∀ o ∈ [0x028, 0x240, 0x004, 0x038], (busyWith 0x10).memWrite o 0x12345678 0 = busyWith 0x10 := by decide
theorem test_bus_error :
    faultsWith .busError (step (State.reset.withInputs [.access ⟨0x004, 2, .read⟩ 0])) = true ∧
    faultsWith .busError (step (State.reset.withInputs [.access ⟨0x002, 4, .read⟩ 0])) = true := by decide
theorem test_outside_window :
    faultsWith .outsideWindow (step (State.reset.withInputs [.access ⟨0x1000, 4, .read⟩ 0])) = true := by decide
theorem test_dropped_write :
    holds (step (writing 0x008 5 (busyWith 0x10))) (fun t => t.argLo == 0 && t.statusWord == 0x00100011) = true := by decide
/-- 43_totp_core.md R212: NOW_IN is sampled for the `_NOW` commands alone. -/
theorem test_now_latched :
    (State.reset.memWrite 0x000 0x22 59).nowLatch = 59 ∧ (State.reset.memWrite 0x000 0x20 59).nowLatch = 0 := by decide
/-- 30_encoding.md R101: SETKEY K20 begins with these accesses (section 3). -/
theorem test_setKey_expansion :
    ((HostLine.setKey (digitsKey 20) 0).expand Config.defaultParams 0).take 6 =
      [.access ⟨0x100, 4, .write 0x34333231⟩ 0, .access ⟨0x104, 4, .write 0x38373635⟩ 0,
        .access ⟨0x108, 4, .write 0x32313039⟩ 0, .access ⟨0x10C, 4, .write 0x36353433⟩ 0,
        .access ⟨0x110, 4, .write 0x30393837⟩ 0, .access ⟨0x008, 4, .write 0x14⟩ 0] := by decide

/-! ### Witnesses: for each obligation with hypotheses, a concrete state and operands that meet them, one for each clause
at the boundary values of its range -/

theorem witness_ResetInputGivesTheResetValues :
    let s := (busyWith 0x20).withInputs [.reset, .engine]
    s.params.wellFormed = true ∧ s.inputs = .reset :: [.engine] := by decide

theorem witness_ParamsShowsTheCapacitiesAndIsConstant :
    (State.resetWith { baseAddr := 0x1000, maxDigits := 8, maxKeyBytes := 64 }).params.wellFormed = true ∧
    (State.resetWith { baseAddr := 0x1000, maxDigits := 64, maxKeyBytes := 256 }).params.wellFormed = true ∧
    ∃ t, step State.reset = .next t := ⟨by decide, by decide, _, rfl⟩

theorem witness_AccessFaultsExactlyWhenNarrowOrMisaligned :
    ∀ a ∈ ([⟨0x5000, 4, .read⟩, ⟨0x5FFC, 4, .write 1⟩, ⟨0x5000, 2, .read⟩, ⟨0x5FFF, 4, .write 0⟩] : List Access),
      let s := (State.resetWith { baseAddr := 0x5000, maxDigits := 10, maxKeyBytes := 128 }).withInputs [.access a 0]
      s.params.wellFormed = true ∧ s.inputs = .access a 0 :: [] ∧ s.params.baseAddr ≤ a.addr ∧
        a.addr < s.params.baseAddr + 0x1000 := by decide

theorem witness_ReadReturnsTheMappedValueAndChangesNothing :
    ∀ o ∈ [0x000, 0x004, 0x008, 0x00C, 0x010, 0x014, 0x018, 0x01C, 0x020, 0x024, 0x028, 0x02C, 0x030, 0x034, 0x038,
        0x0FC, 0x100, 0x1FC, 0x200, 0x23C, 0x240, 0x27C, 0x280, 0xFFC],
      let s := reading o (busyWith 0x10)
      s.params.wellFormed = true ∧ s.inputs = .access (wordAccess s.params o .read) 0 :: [] ∧ o % 4 = 0 ∧
        o < 0x1000 := by decide

theorem witness_IdleWindowWriteStoresItsFourBytes :
    ∀ o ∈ [0x100, 0x17C, 0x180, 0x1FC, 0x200, 0x208, 0x23C],
      let s := writing o 0x34333231 State.reset
      s.params.wellFormed = true ∧ s.mem.wf ∧ s.phase = .idle ∧
        s.inputs = .access (wordAccess s.params o (.write 0x34333231)) 0 :: [] ∧ o % 4 = 0 ∧ 0x100 ≤ o ∧
        o < 0x240 := by decide

theorem witness_IdleWindowWriteStoresItsFourBytes_clauses :
    IsStorage State.reset.params (0x17C + 3) ∧ IsStorage State.reset.params (0x208 + 1) ∧
    ¬IsStorage State.reset.params (0x208 + 2) ∧ ¬IsStorage State.reset.params 0x180 := by
  unfold IsStorage; decide

theorem witness_WindowBytesBeyondTheCapacityAreNotStorage :
    ∀ x ∈ ([(.key, 0x80, 0), (.key, 0xFC, 3), (.cand, 8, 2), (.cand, 0x3C, 3), (.result, 8, 2), (.result, 0x3C, 3)] :
        List (Buffer × Nat × Nat)),
      x.2.1 % 4 = 0 ∧ x.2.1 < x.1.size ∧ x.2.2 < 4 ∧ x.1.cap State.reset.params ≤ x.2.1 + x.2.2 := by decide

theorem witness_IdleRegisterWriteStoresTheWord :
    ∀ o ∈ [0x008, 0x00C, 0x024],
      let s := writing o 0xFFFFFFFF State.reset
      s.params.wellFormed = true ∧ s.phase = .idle ∧
        s.inputs = .access (wordAccess s.params o (.write 0xFFFFFFFF)) 0 :: [] := by decide

theorem witness_BusyWriteIsDropped :
    ∀ o ∈ [0x000, 0x008, 0x00C, 0x024, 0x100, 0x23C],
      let s := writing o 0x01020304 (busyWith 0x11)
      s.params.wellFormed = true ∧ s.phase = .busy ∧
        s.inputs = .access (wordAccess s.params o (.write 0x01020304)) 0 :: [] ∧ o % 4 = 0 ∧
        (o = 0x000 ∨ o = 0x008 ∨ o = 0x00C ∨ o = 0x024 ∨ (0x100 ≤ o ∧ o < 0x240)) := by decide

theorem witness_WriteToReadOnlyOrUnmappedIsIgnored :
    ∀ o ∈ [0x004, 0x010, 0x020, 0x028, 0x0FC, 0x240, 0xFFC],
      let s := writing o 0x01020304 (busyWith 0x11)
      s.params.wellFormed = true ∧ s.inputs = .access (wordAccess s.params o (.write 0x01020304)) 0 :: [] ∧
        o % 4 = 0 ∧
        (o = 0x004 ∨ (0x010 ≤ o ∧ o ≤ 0x020) ∨ (0x028 ≤ o ∧ o < 0x100) ∨ (0x240 ≤ o ∧ o < 0x1000)) := by decide

theorem witness_WindowWriteThenReadReturnsTheWord :
    ∀ o ∈ [0x100, 0x17C, 0x200, 0x204],
      let s := State.reset.withInputs [.access (wordAccess State.reset.params o (.write 0xAABBCCDD)) 0,
        .access (wordAccess State.reset.params o .read) 1]
      s.params.wellFormed = true ∧ s.mem.wf ∧ s.phase = .idle ∧
        s.inputs = .access (wordAccess s.params o (.write 0xAABBCCDD)) 0 :: .access (wordAccess s.params o .read) 1 :: [] ∧
        o % 4 = 0 ∧ ((0x100 ≤ o ∧ o + 4 ≤ 0x100 + s.params.maxKeyBytes) ∨
          (0x200 ≤ o ∧ o + 4 ≤ 0x200 + s.params.maxDigits)) := by decide

theorem witness_RepeatingAWriteLeavesTheSameState :
    (keyed (digitsKey 20) .sha1 6 0).mem.wf ∧ 0x004 % 4 = 0 ∧ 0x004 ≠ 0x000 ∧ 0xFFC % 4 = 0 ∧ 0xFFC ≠ 0x000 := by decide

theorem witness_CmdWriteWhileIdleAcceptsTheCommand (w : Word) :
    (let s := writing 0 w State.reset;
      s.params.wellFormed = true ∧ s.inputs = .access (wordAccess s.params 0x000 (.write w)) 0 :: [] ∧ s.phase = .idle) ∧
    (let s := writing 0 w (busyWith 0x10);
      s.params.wellFormed = true ∧ s.inputs = .access (wordAccess s.params 0x000 (.write w)) 0 :: [] ∧
        s.phase = .busy) := ⟨⟨rfl, rfl, rfl⟩, rfl, rfl, rfl⟩

theorem witness_StepRunsTheDecodedCommand :
    let s := busyWith 0x20
    s.params.wellFormed = true ∧ s.phase = .busy ∧ decode s.pend = .ok .totpGenerate ∧ s.inputs = [] ∧
      (s.withInputs [.engine]).inputs = .engine :: [] := by decide

theorem witness_PlacedWordIsTheNextCommandRun : State.reset.params.wellFormed = true := by decide

theorem witness_EngineTakesNoStepWhileIdle :
    State.reset.params.wellFormed = true ∧ State.reset.phase = .idle ∧ State.reset.inputs = [] ∧
    (State.reset.withInputs [.engine]).inputs = .engine :: [] := by decide

theorem witness_IllegalWordCompletesWithIllegalCommand :
    ∀ w ∈ ([0x00000000, 0x00000110, 0x00000024, 0x80000001] : List Word),
      let s := (busyWith w).withInputs [.engine]
      s.params.wellFormed = true ∧ s.phase = .busy ∧ s.inputs = .engine :: [] ∧
        s.status.lastop = s.pend.extractLsb' 0 8 ∧ IllegalWord s.pend := by
  intro w hw
  refine ⟨rfl, rfl, rfl, rfl, ?_⟩
  simp only [List.mem_cons, List.not_mem_nil, or_false] at hw
  rcases hw with rfl | rfl | rfl | rfl <;> (unfold IllegalWord; decide)

theorem witness_DecodeInvertsEncodeOnEveryWord : Instr.wellFormed .totpVerifyNow = true := by decide

theorem witness_SetSecretCommitsTheLengthOrFails :
    (withArg 128 0).argLo.toNat ≤ (withArg 128 0).params.maxKeyBytes ∧
    (withArg 129 0).params.maxKeyBytes < (withArg 129 0).argLo.toNat := by decide

theorem witness_SetAlgorithmSelectsTheHashOrFails :
    ((withArg 0 0).argLo.toNat < 3 ∧ (withArg 0 0).argLo = 0) ∧ ((withArg 1 0).argLo.toNat < 3 ∧ (withArg 1 0).argLo = 1) ∧
    ((withArg 2 0).argLo.toNat < 3 ∧ (withArg 2 0).argLo = 2) ∧ 3 ≤ (withArg 3 0).argLo.toNat := by decide

theorem witness_SetPasswordLengthCommitsTheDigitsOrFails :
    (1 ≤ (withArg 1 0).argLo.toInt ∧ (withArg 1 0).argLo.toInt ≤ (withArg 1 0).params.maxDigits) ∧
    (1 ≤ (withArg 10 0).argLo.toInt ∧ (withArg 10 0).argLo.toInt ≤ (withArg 10 0).params.maxDigits) ∧
    (withArg 0 0).argLo.toInt < 1 ∧ ((withArg 11 0).params.maxDigits : Int) < (withArg 11 0).argLo.toInt := by decide

theorem witness_SetWindowSizeCommitsTheWindowOrFails :
    0 ≤ (withArg 0 0).argLo.toInt ∧ 0 ≤ (withArg 0x7FFFFFFF 0).argLo.toInt ∧ (withArg 0x80000000 0).argLo.toInt < 0 ∧
    (withArg 0xFFFFFFFF 0).argLo.toInt < 0 := by decide

theorem witness_SetIntervalCommitsTheIntervalOrFails :
    0 < (withArg 1 0).argLo.toInt ∧ 0 < (withArg 0x7FFFFFFF 0).argLo.toInt ∧ (withArg 0 0).argLo.toInt ≤ 0 ∧
    (withArg 0x80000000 0).argLo.toInt ≤ 0 := by decide

/-- A configured state meets the hypotheses of the three generates and of the two TOTP verifies. -/
theorem witness_configured : ConfigInv (keyed (digitsKey 20) .sha1 6 59) ∧ (keyed (digitsKey 20) .sha1 6 59).mem.wf := by
  unfold ConfigInv; decide +kernel

theorem witness_HotpGenerateGivesThePassword : ConfigInv State.reset ∧ State.reset.mem.wf := by unfold ConfigInv; decide
theorem witness_TotpGenerateGivesThePassword : ConfigInv State.reset ∧ State.reset.mem.wf := by unfold ConfigInv; decide
theorem witness_TotpGenerateNowGivesThePassword : ConfigInv State.reset ∧ State.reset.mem.wf := by
  unfold ConfigInv; decide
theorem witness_TotpVerifyScansTheWindow : ConfigInv State.reset := by unfold ConfigInv; decide
theorem witness_TotpVerifyNowScansTheWindow : ConfigInv State.reset := by unfold ConfigInv; decide

theorem witness_GenerateAndVerifyRaiseNoError : IsGenerate .totpGenerateNow ∧ IsVerify .hotpVerify := by
  unfold IsGenerate IsVerify; decide

/-- Two states that differ in CODE, LAST_CTR, STATUS and a KEY byte beyond KEY_LEN. -/
theorem witness_ResultsDependOnlyOnConfigurationOperandAndCandidate :
    let s := State.reset
    let s' := { State.reset with code := 7, lastCtrLo := 9, status := Status.accepted 0x11, mem := [(0x101, 5)] }
    s.mem.wf ∧ s'.mem.wf ∧ SameInputs s s' ∧ s.status.err = false ∧ s.status.errcode = 0 ∧ s'.status.err = false ∧
      s'.status.errcode = 0 := by
  refine ⟨by decide, by decide, ⟨⟨rfl, rfl, rfl, rfl, rfl, rfl⟩, ⟨rfl, rfl, rfl⟩, rfl, ?_, ?_⟩, by decide⟩ <;>
    exact fun i hi => absurd hi (Nat.not_lt_zero i)

/-- For each pair of a generate and its verify: after the generate, RESULT copied into CAND. -/
theorem witness_VerifyAcceptsWhatGenerateProduced :
    ∀ p ∈ [(Instr.hotpGenerate, Instr.hotpVerify), (.totpGenerate, .totpVerify), (.totpGenerateNow, .totpVerifyNow)],
      ∃ t u : State, ConfigInv State.reset ∧ State.reset.mem.wf ∧ exec p.1 State.reset = .next t ∧ SameConfig t u ∧
        (∀ i < State.reset.keyLen.toNat, u.bufByte .key i = t.bufByte .key i) ∧ u.argLo = State.reset.argLo ∧
        u.argHi = State.reset.argHi ∧ u.nowLatch = State.reset.nowLatch ∧ u.candLen = State.reset.digits ∧
        ∀ k < State.reset.digits.toNat, u.bufByte .cand k = t.bufByte .result k := by
  have key : ∀ f, ∃ u : State, SameConfig (State.reset.generateAt f) u ∧
      (∀ i < State.reset.keyLen.toNat, u.bufByte .key i = (State.reset.generateAt f).bufByte .key i) ∧
      u.argLo = State.reset.argLo ∧ u.argHi = State.reset.argHi ∧ u.nowLatch = State.reset.nowLatch ∧
      u.candLen = State.reset.digits ∧
      ∀ k < State.reset.digits.toNat, u.bufByte .cand k = (State.reset.generateAt f).bufByte .result k := by
    intro f
    have hw : (State.reset.generateAt f).mem.wf := by
      have := setResult_wf (State.reset.codeAt f) (render (State.reset.codeAt f) State.reset.digits.toNat)
        (s := State.reset) (by decide)
      simpa using this
    have hp : (State.reset.generateAt f).params = Config.defaultParams := by simp [State.reset]
    have ha : (State.reset.generateAt f).argLo = State.reset.argLo ∧
        (State.reset.generateAt f).argHi = State.reset.argHi ∧
        (State.reset.generateAt f).nowLatch = State.reset.nowLatch := by simp
    generalize State.reset.generateAt f = t at hw hp ha
    refine ⟨{ t with
        candLen := State.reset.digits
        mem := t.mem.writeBytes 0x200 ((List.range 10).map fun k => t.bufByte .result k) },
      ⟨rfl, rfl, rfl, rfl, rfl, rfl⟩, fun i hi => absurd hi (Nat.not_lt_zero i), ha.1, ha.2.1, ha.2.2, rfl, ?_⟩
    intro k hk
    have hk : k < 6 := hk
    have hc : k < Buffer.cap t.params .cand := by rw [hp]; exact Nat.lt_of_lt_of_le hk (by decide)
    rw [State.bufByte, if_pos hc]
    refine (read_writeBytes hw _ _ (by simp; omega)).trans ?_
    simp [show k < 10 by omega]
  intro p hp
  have hin : ConfigInv State.reset ∧ State.reset.mem.wf := by unfold ConfigInv; decide
  simp only [List.mem_cons, List.not_mem_nil, or_false] at hp
  rcases hp with rfl | rfl | rfl
  · obtain ⟨u, hu⟩ := key State.reset.arg64
    exact ⟨_, u, hin.1, hin.2, rfl, hu⟩
  · obtain ⟨u, hu⟩ := key (counterOf State.reset.arg64 State.reset.interval)
    exact ⟨_, u, hin.1, hin.2, rfl, hu⟩
  · obtain ⟨u, hu⟩ := key (counterOf State.reset.nowLatch State.reset.interval)
    exact ⟨_, u, hin.1, hin.2, rfl, hu⟩

theorem witness_FailedCommandChangesOnlyStatus :
    (busyWith 0x05).status.err = false ∧ ∃ t, completion (busyWith 0x05) = .next t ∧ t.status.err = true :=
  ⟨by decide, _, rfl, by decide⟩

/-- One state for each error code, and one without an error. -/
theorem witness_EachErrorCodeHasItsOneCause :
    (∀ x ∈ ([(0x03, 0, 1), (0x03, 11, 1), (0x04, 0xFFFFFFFF, 2), (0x05, 0, 3), (0x02, 3, 4), (0x01, 129, 5),
        (0x06, 0, 6)] : List (Word × Word × Nat)),
      let s := (withArg x.2.1 0).accept x.1 0
      s.status.err = false ∧ s.status.errcode = 0 ∧ ErrorCause s x.2.2) ∧
    (busyWith 0x10).status.err = false ∧ (busyWith 0x10).status.errcode = 0 := by
  unfold ErrorCause IllegalWord; decide

/-- A step that changes the register, for each register of the statement; the last five for what the host writes. -/
theorem witness_EachRegisterIsWrittenOnlyByItsOwner :
    holds (step ((withArg 20 0).accept 0x01 0)) (fun t => t.keyLen != 0) = true ∧
    holds (step ((withArg 1 0).accept 0x02 0)) (fun t => t.alg != .sha1) = true ∧
    holds (step ((withArg 8 0).accept 0x03 0)) (fun t => t.digits != 6) = true ∧
    holds (step ((withArg 2 0).accept 0x04 0)) (fun t => t.window != 1) = true ∧
    holds (step ((withArg 60 0).accept 0x05 0)) (fun t => t.interval != 30) = true ∧
    holds (step ((withArg 1 0).accept 0x11 0)) (fun t => t.lastCtrLo != 0) = true ∧
    holds (step (writing 0x008 1 State.reset)) (fun t => t.argLo != 0) = true ∧
    holds (step (writing 0x00C 1 State.reset)) (fun t => t.argHi != 0) = true ∧
    holds (step (writing 0x024 1 State.reset)) (fun t => t.candLen != 0) = true ∧
    holds (step (writing 0x17C 0x01000000 State.reset)) (fun t => t.mem.read (0x100 + 127) != 0) = true ∧
    holds (step (writing 0x208 0x00000100 State.reset)) (fun t => t.mem.read (0x200 + 9) != 0) = true := by decide

/-- The same for PEND, NOW_LATCH, PHASE and STATUS: acceptances, a completion and a dropped write. -/
theorem witness_EachRegisterIsWrittenOnlyByItsOwner_latches :
    holds (step (writing 0x000 0x10 State.reset)) (fun t => t.pend == 0x10 && t.phase == .busy) = true ∧
    holds (step (State.reset.withInputs [.access (wordAccess State.reset.params 0x000 (.write 0x22)) 59]))
      (fun t => t.nowLatch == 59) = true ∧
    holds (step (State.reset.withInputs [.access (wordAccess State.reset.params 0x000 (.write 0x23)) 60]))
      (fun t => t.nowLatch == 60) = true ∧
    holds (step (busyWith 0x05)) (fun t => t.phase == .idle && t.status.err) = true ∧
    holds (step (writing 0x008 1 (busyWith 0x10))) (fun t => t.status == (busyWith 0x10).status.withDropped) = true := by
  decide

/-- The same for CODE and RESULT (section 2.11). -/
theorem witness_EachRegisterIsWrittenOnlyByItsOwner_code :
    holds (step (State.reset.accept 0x10 0)) (fun t => t.code == 328482 && t.bufByte .result 0 == 0x33) = true := by
  decide +kernel

/-- A read of STATUS and two writes, at the first and the last aligned offset, while BUSY. -/
def busAccesses : List Input :=
  [.access ⟨0x000, 4, .write 0x10⟩ 0, .access ⟨0x004, 4, .read⟩ 1, .access ⟨0xFFC, 4, .write 5⟩ 2]

theorem witness_AcceptedCommandCompletesAfterAnyHostAccesses :
    (busyWith 0x20).params.wellFormed = true ∧ (busyWith 0x20).phase = .busy ∧
    ∀ m ∈ busAccesses, GoodAccess (busyWith 0x20).params m := by
  refine ⟨by decide, by decide, fun m hm => ?_⟩
  simp only [busAccesses, List.mem_cons, List.not_mem_nil, or_false] at hm
  rcases hm with rfl | rfl | rfl <;> exact ⟨by decide, by decide, by decide, by decide⟩

theorem witness_SnapshotAtAcceptanceAgreesWithCompletion :
    (busyWith 0x20).params.wellFormed = true ∧ (busyWith 0x20).phase = .busy ∧
    ∀ m ∈ busAccesses, GoodAccess (busyWith 0x20).params m := witness_AcceptedCommandCompletesAfterAnyHostAccesses

/-- A legal and an illegal command in flight. -/
theorem witness_ArgWriteAndCompletionMayComeInEitherOrder :
    ((busyWith 0x10).params.wellFormed = true ∧ (busyWith 0x10).phase = .busy) ∧
    (busyWith 0x110).params.wellFormed = true ∧ (busyWith 0x110).phase = .busy := by decide

/-- A BUSY state that meets the invariant, and the step from it. -/
theorem witness_EveryStepKeepsTheInvariant : MachineInv (busyWith 0x11) ∧ ∃ t, step (busyWith 0x11) = .next t := by
  refine ⟨⟨by unfold ConfigInv; decide, ⟨by decide, by decide, fun h => absurd h (by decide), by decide, by decide⟩,
    ⟨by decide, fun c hc => absurd hc (by simp [busyWith, State.reset])⟩, by decide, fun k => .inl (bufByte_nil rfl _ _)⟩,
    _, rfl⟩

theorem witness_MovingFactorIsEncodedInEightBytes : enc64 0x0102030405060708 = enc64 0x0102030405060708 := rfl

/-- Key lengths at and just above the block size. -/
theorem witness_HmacIsTheKeyedHash :
    Alg.sha1.blockLen < (List.replicate 65 (0 : Byte)).length ∧ (List.replicate 64 (0 : Byte)).length ≤ Alg.sha1.blockLen ∧
    Alg.sha512.blockLen < (List.replicate 129 (0 : Byte)).length ∧
    (List.replicate 128 (0 : Byte)).length ≤ Alg.sha512.blockLen ∧ ([] : List Byte).length ≤ Alg.sha256.blockLen := by decide

theorem witness_RenderWritesTheDecimalDigits : 999999 < 10 ^ 6 ∧ 5 < 6 ∧ 0 < 10 ^ 0 := by decide

theorem witness_ScanningBySecondsAcceptsTheSameCandidates : (30 : Word) ≠ 0 := by decide

/-- The last second of step 1 and, one step away, the first of step 2 and the last of step 0. -/
theorem witness_PasswordIsAcceptedWithinTheTolerance :
    ∀ t ∈ ([60, 29] : List DWord),
      let cand : Candidate := { len := 6, bytes := hotp .sha1 [] (counterOf 59 30) 6 }
      (30 : Word) ≠ 0 ∧ cand.len = 6 ∧ (∀ k < 6, cand.bytes.getD k 0 = (hotp .sha1 [] (counterOf 59 30) 6).getD k 0) ∧
        (59 : DWord).toNat / (30 : Word).toNat ≤ t.toNat / (30 : Word).toNat + 1 ∧
        t.toNat / (30 : Word).toNat ≤ (59 : DWord).toNat / (30 : Word).toNat + 1 := by
  intro t ht
  refine ⟨by decide, rfl, fun _ _ => rfl, ?_⟩
  simp only [List.mem_cons, List.not_mem_nil, or_false] at ht
  rcases ht with rfl | rfl <;> decide

theorem witness_Sha1ScheduleFollowsItsRecurrence : (List.replicate 16 (0 : Word)).length = 16 := by decide

theorem witness_Sha2SchedulesFollowTheirRecurrences :
    (List.replicate 16 (0 : Word)).length = 16 ∧ (List.replicate 16 (0 : DWord)).length = 16 := by decide

theorem witness_WordsAreBigEndianInBlocksAndDigests :
    (List.replicate 64 (0 : Byte)).length = 64 ∧ (List.replicate 128 (0 : Byte)).length = 128 ∧ 15 < 16 ∧ 7 < 8 := by decide

theorem witness_ResetKeepsTheMovesStillToCome :
    let s := (busyWith 0x20).withInputs [.reset, .engine]
    s.params.wellFormed = true ∧ s.inputs = .reset :: [.engine] := by decide

end Sys2Proof.Tests
end

section
/-! SUPPORT. STATUS and PARAMS as a read sees them (spec/10_state.md R35 to R43): the field at each bit, and that no step
changes PARAMS. -/

namespace Sys2Proof.Machine

theorem busy_eq_true_iff {s : State} : s.busy = true ↔ s.phase = .busy := by
  cases h : s.phase <;> simp [h]

/-- The one-bit fields of STATUS (R35 to R39). -/
theorem statusWord_flags (s : State) :
    s.statusWord.getLsbD 0 = s.busy ∧ s.statusWord.getLsbD 1 = s.status.done ∧ s.statusWord.getLsbD 2 = s.status.err ∧
      s.statusWord.getLsbD 3 = s.status.matched ∧ s.statusWord.getLsbD 4 = s.status.dropped := by
  refine ⟨?_, ?_, ?_, ?_, ?_⟩ <;>
    simp only [State.statusWord, BitVec.getLsbD_append, Nat.reduceSub, Nat.reduceLT, if_true, if_false,
      BitVec.getLsbD_ofBool, decide_true, Bool.true_and]

/-- The wider fields of STATUS, ERRCODE (R40) and LASTOP (R41), and its reserved bits (R42). -/
@[simp] theorem statusWord_fields (s : State) :
    s.statusWord.extractLsb' 5 3 = 0 ∧ s.statusWord.extractLsb' 8 4 = s.status.errcode ∧
      s.statusWord.extractLsb' 12 4 = 0 ∧ s.statusWord.extractLsb' 16 8 = s.status.lastop ∧
      s.statusWord.extractLsb' 24 8 = 0 := by
  refine ⟨?_, ?_, ?_, ?_, ?_⟩ <;>
    simp (disch := omega) only [State.statusWord, BitVec.extractLsb'_append_eq_of_le,
      BitVec.extractLsb'_append_eq_of_add_le, Nat.reduceSub, BitVec.extractLsb'_eq_self]

theorem memRead_params (s : State) : s.memRead 0x034 = Params.word s.params := memRead_reg s .params

/-- MAX_DIGITS at bits [7:0] of PARAMS, which hold every legal value of it (R43). -/
theorem paramsWord_maxDigits {p : Params} (h : p.wellFormed = true) :
    ((Params.word p).extractLsb' 0 8).toNat = p.maxDigits := by
  obtain ⟨-, hd, -, -⟩ := wf_bounds h
  have hfield : (Params.word p).extractLsb' 0 8 = BitVec.ofNat 8 p.maxDigits := by
    rw [Params.word, BitVec.extractLsb'_append_eq_of_add_le (by omega), BitVec.extractLsb'_eq_self]
  rw [hfield, BitVec.toNat_ofNat, Nat.mod_eq_of_lt (by omega)]

/-- MAX_KEY_BYTES at bits [16:8] of PARAMS, wide enough for 256 (R43). -/
theorem paramsWord_maxKeyBytes {p : Params} (h : p.wellFormed = true) :
    ((Params.word p).extractLsb' 8 9).toNat = p.maxKeyBytes := by
  obtain ⟨-, -, -, hk⟩ := wf_bounds h
  have hfield : (Params.word p).extractLsb' 8 9 = BitVec.ofNat 9 p.maxKeyBytes := by
    rw [Params.word, BitVec.extractLsb'_append_eq_of_le (by omega), BitVec.extractLsb'_append_eq_of_add_le (by omega),
      BitVec.extractLsb'_eq_self]
  rw [hfield, BitVec.toNat_ofNat, Nat.mod_eq_of_lt (by omega)]

/-- The bits of PARAMS above its two fields (R43). -/
theorem paramsWord_upper (p : Params) : (Params.word p).extractLsb' 17 15 = 0 := by
  rw [Params.word, BitVec.extractLsb'_append_eq_of_le (by omega), BitVec.extractLsb'_append_eq_of_le (by omega),
    BitVec.extractLsb'_eq_self]

/-- No step changes what PARAMS reads as (R43), because none changes the parameters. -/
theorem step_memRead_params {s t : State} (h : step s = .next t) : t.memRead 0x034 = s.memRead 0x034 := by
  rw [memRead_params, memRead_params, step_params h]

end Sys2Proof.Machine

namespace Sys2Proof

open Sys2Proof.Machine

/-- Settles O4: for legal parameters both capacities fit their fields, and the parameters are the same after any step. -/
theorem paramsShowsTheCapacitiesAndIsConstant : Obligations.ParamsShowsTheCapacitiesAndIsConstant := by
  refine ⟨fun s hw => ?_, fun s t h => step_memRead_params h⟩
  rw [memRead_params]
  exact ⟨paramsWord_maxDigits hw, paramsWord_maxKeyBytes hw, paramsWord_upper s.params⟩

/-- Settles O3, from the layout of STATUS field by field. -/
theorem statusFieldsStandAtTheirBits : Obligations.StatusFieldsStandAtTheirBits := by
  intro s
  obtain ⟨hbusy, hdone, herr, hmatched, hdropped⟩ := statusWord_flags s
  obtain ⟨hlow, herrcode, hmid, hlastop, hhigh⟩ := statusWord_fields s
  exact ⟨by rw [hbusy, busy_eq_true_iff], hdone, herr, hmatched, hdropped, hlow, herrcode, hmid, hlastop, hhigh⟩

end Sys2Proof
end

section
/-! SUPPORT. Reads and the byte windows (spec/20_memory.md R61, R65 to R67): what a read answers at every offset, and
that a window byte beyond a buffer's capacity is not storage. -/

namespace Sys2Proof.Machine

/-- A read at a register's offset; the offset may be given as any number equal to it. -/
theorem memRead_of_eq_offset (s : State) {o : Nat} (r : Reg) (h : o = r.offset) : s.memRead o = s.readReg r := by
  rw [h, memRead_reg]

/-- A read of an unmapped offset (R61). -/
theorem memRead_unmapped (s : State) {o : Nat} (h : (0x038 ≤ o ∧ o < 0x100) ∨ 0x280 ≤ o) : s.memRead o = 0 := by
  rw [State.memRead, ofOffset_unmapped h]

/-- Byte `j` of a word read in a window is the buffer's byte (R63). -/
theorem extractLsb'_memRead_buf (s : State) (b : Buffer) {i j : Nat} (hi : i < b.size) (hj : j < 4) :
    (s.memRead (b.base + i)).extractLsb' (8 * j) 8 = s.bufByte b (i + j) := by
  rw [memRead_buf s b hi]
  exact byteOfWord_wordOfBytes _ hj

/-- The same in terms of the offset and of memory, with the capacity's bound (R65). -/
theorem extractLsb'_memRead_window (s : State) (b : Buffer) {o : Nat} (h : b.base ≤ o) (h' : o < b.base + b.size)
    {j : Nat} (hj : j < 4) :
    (s.memRead o).extractLsb' (8 * j) 8 = if o - b.base + j < b.cap s.params then s.mem.read (o + j) else 0 := by
  obtain ⟨i, rfl⟩ := Nat.exists_eq_add_of_le h
  rw [extractLsb'_memRead_buf s b (by omega) hj, State.bufByte, Nat.add_sub_cancel_left, Nat.add_assoc]

/-- PARAMS as a number: the two capacities do not overlap (10_state.md R43). -/
theorem paramsWord_eq_ofNat {p : Params} (h : p.wellFormed = true) :
    Params.word p = BitVec.ofNat 32 (p.maxDigits + 256 * p.maxKeyBytes) := by
  obtain ⟨-, hd, -, hk⟩ := wf_bounds h
  apply BitVec.eq_of_toNat_eq
  rw [Params.word, BitVec.toNat_append, ← Nat.shiftLeft_add_eq_or_of_lt (BitVec.isLt _), BitVec.toNat_append,
    Nat.shiftLeft_eq]
  simp only [BitVec.ofNat_eq_ofNat, BitVec.toNat_ofNat, Nat.zero_mod, Nat.zero_shiftLeft, Nat.zero_or]
  omega

/-- The moves still to come are no part of what a read answers. -/
theorem memRead_withInputs (l : List Input) (s : State) (o : Nat) : (s.withInputs l).memRead o = s.memRead o := (rfl)

/-- A step whose next move is a host read of a word. -/
theorem step_read {s : State} {o : Nat} {now : DWord} {rest : List Input} (hw : s.params.wellFormed = true)
    (hi : s.inputs = .access (wordAccess s.params o .read) now :: rest) (ho : o % 4 = 0) (ho' : o < 0x1000) :
    step s = .next ((s.withInputs rest).withReply (.data (s.memRead o))) := by
  rw [step_access hw hi, ← withInputs_params rest s, performAccess_word _ _ _ ho ho', memRead_withInputs]

/-- A buffer byte beyond the capacity reads as 0 (R67). -/
theorem bufByte_beyond {s : State} {b : Buffer} {i : Nat} (h : b.cap s.params ≤ i) : s.bufByte b i = 0 :=
  if_neg (Nat.not_lt.2 h)

/-- A write in a window leaves memory as it was, when it is dropped or the window is RESULT's, or stores its word. -/
theorem memWrite_buf_mem (s : State) (b : Buffer) {i : Nat} (h : i < b.size) (v : Word) (now : DWord) :
    (s.memWrite (b.base + i) v now).mem = s.mem ∨ (s.memWrite (b.base + i) v now).mem = (s.setBufWord b i v).mem := by
  by_cases hb : b = .result
  · subst hb
    exact .inl (by rw [memWrite_result s h])
  · rw [memWrite_buf s hb h]
    cases hp : s.phase with
    | idle => exact .inr (by rw [unlessBusy_idle hp])
    | busy => exact .inl (by rw [unlessBusy_busy hp, drop_mem])

/-- A write in a window leaves each of its bytes beyond the capacity as it was (R66, R67). -/
theorem memWrite_read_beyond (s : State) (b : Buffer) {i j : Nat} (hi : i < b.size) (hc : b.cap s.params ≤ i + j)
    (v : Word) (now : DWord) :
    (s.memWrite (b.base + i) v now).mem.read (b.base + i + j) = s.mem.read (b.base + i + j) := by
  rcases memWrite_buf_mem s b hi v now with hm | hm <;> rw [hm]
  exact setBufWord_read_other b i v s fun k _ he => by omega

end Sys2Proof.Machine

namespace Sys2Proof

open Sys2Proof.Machine

/-- Settles O6: the step is the read of `step_read`, and the value is read off the address map clause by clause. -/
theorem readReturnsTheMappedValueAndChangesNothing : Obligations.ReadReturnsTheMappedValueAndChangesNothing := by
  intro s o now rest hw hi ho ho'
  have reg := memRead_of_eq_offset s (o := o)
  exact ⟨s.memRead o, step_read hw hi ho ho',
    reg .cmd, reg .status, reg .argLo, reg .argHi, reg .alg, reg .digits, reg .window, reg .interval, reg .keyLen,
    reg .candLen, reg .code, reg .lastCtrLo, reg .lastCtrHi,
    fun h => (reg .params h).trans (paramsWord_eq_ofNat hw),
    fun h h' => memRead_unmapped s (.inl ⟨h, h'⟩), fun h => memRead_unmapped s (.inr h),
    fun h h' _ hj => extractLsb'_memRead_window s .key h h' hj,
    fun h h' _ hj => extractLsb'_memRead_window s .cand h h' hj,
    fun h h' _ hj => extractLsb'_memRead_window s .result h h' hj⟩

/-- Settles O8: such a byte reads as 0 in every state with the same parameters, and a write keeps both those and the
byte of memory. -/
theorem windowBytesBeyondTheCapacityAreNotStorage : Obligations.WindowBytesBeyondTheCapacityAreNotStorage := by
  intro s b i j v now _ hi hj hc
  have reads_zero : ∀ t : State, t.params = s.params → (t.memRead (b.base + i)).extractLsb' (8 * j) 8 = 0 := by
    intro t ht
    rw [extractLsb'_memRead_buf t b hi hj, bufByte_beyond (ht ▸ hc)]
  exact ⟨reads_zero s rfl, memWrite_read_beyond s b hi hc v now, reads_zero _ (memWrite_params s _ v now)⟩

end Sys2Proof
end

section
/-! SUPPORT. The acceptance of a command word (spec/30_encoding.md R98): what the step of a host write to CMD does, in
either PHASE. -/

namespace Sys2Proof.Machine

/-- A step whose next move is a host write of a word. -/
theorem step_write {s : State} {o : Nat} {v : Word} {now : DWord} {rest : List Input} (hw : s.params.wellFormed = true)
    (hi : s.inputs = .access (wordAccess s.params o (.write v)) now :: rest) (ho : o % 4 = 0) (ho' : o < 0x1000) :
    step s = .next (((s.withInputs rest).memWrite o v now).withReply .ack) := by
  rw [step_access hw hi, ← withInputs_params rest s, performAccess_word _ _ _ ho ho']

section
variable {s : State} {w : Word} {now : DWord} {rest : List Input} (hw : s.params.wellFormed = true)
  (hi : s.inputs = .access (wordAccess s.params 0x000 (.write w)) now :: rest)
include hw hi

/-- A CMD write while IDLE is the acceptance of its word, legal or not (R98). -/
theorem step_cmdWrite_idle (hp : s.phase = .idle) :
    step s = .next (((s.withInputs rest).accept w now).withReply .ack) := by
  rw [step_write hw hi (by decide) (by decide), memWrite_cmd, unlessBusy_idle (by simpa using hp)]

/-- A CMD write while BUSY is dropped (R98, 20_memory.md R66). -/
theorem step_cmdWrite_busy (hp : s.phase = .busy) : step s = .next ((s.withInputs rest).drop.withReply .ack) := by
  rw [step_write hw hi (by decide) (by decide), memWrite_cmd, unlessBusy_busy (by simpa using hp)]

end

/-- Bit 0 of STATUS is 1 while BUSY (10_state.md R35). -/
theorem statusWord_getElem_zero {s : State} (h : s.phase = .busy) : s.statusWord[0] = true := by
  rw [← BitVec.getLsbD_eq_getElem, (statusWord_flags s).1, busy_busy s h]

end Sys2Proof.Machine

namespace Sys2Proof

open Sys2Proof.Machine

/-- Settles O14, by PHASE: while IDLE the step is the acceptance, while BUSY it is the dropped write. -/
theorem cmdWriteWhileIdleAcceptsTheCommand : Obligations.CmdWriteWhileIdleAcceptsTheCommand := by
  intro s w now rest hw hi
  cases hp : s.phase with
  | idle =>
    refine ⟨_, step_cmdWrite_idle hw hi hp, ?_⟩
    simp [SameConfig, SameHostRegs, SameResultRegs, statusWord_getElem_zero, opcodeField]
  | busy =>
    refine ⟨_, step_cmdWrite_busy hw hi hp, ?_⟩
    simp [SameConfig, SameHostRegs, SameResultRegs, hp, Status.withDropped]

end Sys2Proof
end

section
/-! SUPPORT. The pure functions of HotpCore (spec/40_hotp_core.md R110 to R117): what the encoding of a factor, HMAC, the
truncation and the rendering of a code give. -/

namespace Sys2Proof.Machine

/-- Big-endian bytes that cover the whole word determine it. -/
theorem bytesBE_injective {n w : Nat} (hw : w ≤ 8 * n) {x y : BitVec w} (h : bytesBE n x = bytesBE n y) : x = y := by
  apply BitVec.eq_of_getLsbD_eq
  intro i hi
  have hk : n - 1 - (n - 1 - i / 8) = i / 8 := by omega
  have hbyte : x.extractLsb' (8 * (i / 8)) 8 = y.extractLsb' (8 * (i / 8)) 8 := by
    rw [← hk, ← getD_bytesBE (by omega), h, getD_bytesBE (by omega)]
  have hbit := congrArg (·.getLsbD (i % 8)) hbyte
  simpa [Nat.mod_lt, Nat.div_add_mod] using hbit

@[simp] theorem length_enc64 (f : DWord) : (enc64 f).length = 8 := length_bytesBE 8 f

/-- Byte `k` of the encoding of a factor (R110). -/
theorem getD_enc64 {k : Nat} (h : k < 8) (f : DWord) : (enc64 f).getD k 0 = f.extractLsb' (56 - 8 * k) 8 := by
  rw [enc64, getD_bytesBE h, show 8 * (8 - 1 - k) = 56 - 8 * k by omega]

@[simp] theorem Sha1Value.length_bytes (h : Sha1Value) : h.bytes.length = 20 := by simp [Sha1Value.bytes]

@[simp] theorem Sha2Value.length_bytes {w : Nat} (n : Nat) (s : Sha2Value w) : (s.bytes n).length = 8 * n := by
  simp only [Sha2Value.bytes, List.length_append, length_bytesBE]
  omega

/-- Every digest has the algorithm's L bytes (R111). -/
@[simp] theorem length_hash (alg : Alg) (m : List Byte) : (alg.hash m).length = alg.digestLen := by
  cases alg
  case sha1 => exact Sha1Value.length_bytes _
  case sha256 => exact Sha2Value.length_bytes 4 _
  case sha512 => exact Sha2Value.length_bytes 8 _

/-- A digest fits a block. -/
theorem digestLen_le_blockLen (alg : Alg) : alg.digestLen ≤ alg.blockLen := by cases alg <;> decide

/-- K0 of a key longer than a block (R112). -/
theorem hmacKey_of_long {alg : Alg} {key : List Byte} (h : alg.blockLen < key.length) :
    hmacKey alg key = alg.hash key ++ List.replicate (alg.blockLen - alg.digestLen) 0 := if_pos h

/-- K0 of a key that fits a block (R112). -/
theorem hmacKey_of_short {alg : Alg} {key : List Byte} (h : key.length ≤ alg.blockLen) :
    hmacKey alg key = key ++ List.replicate (alg.blockLen - key.length) 0 := if_neg (Nat.not_lt.2 h)

/-- K0 has exactly B bytes (R112). -/
@[simp] theorem length_hmacKey (alg : Alg) (key : List Byte) : (hmacKey alg key).length = alg.blockLen := by
  rcases Nat.lt_or_ge alg.blockLen key.length with h | h
  · simp [hmacKey_of_long h, Nat.add_sub_of_le (digestLen_le_blockLen alg)]
  · simp [hmacKey_of_short h, Nat.add_sub_of_le h]

/-- Exclusive-or of K0 with a block of one byte repeated. -/
theorem zipWith_xor_hmacKey (alg : Alg) (key : List Byte) (p : Byte) :
    List.zipWith (· ^^^ ·) (hmacKey alg key) (List.replicate alg.blockLen p) = xorPad (hmacKey alg key) p := by
  rw [← length_hmacKey alg key, zipWith_xor_replicate]

@[simp] theorem length_hmac (alg : Alg) (key msg : List Byte) : (hmac alg key msg).length = alg.digestLen :=
  length_hash alg _

/-- The truncation offset is the last byte modulo 16 (R113). -/
theorem truncOffset_eq (d : List Byte) : truncOffset d = (d.getD (d.length - 1) 0).toNat % 16 := by
  rw [truncOffset, BitVec.toNat_and]
  exact Nat.and_two_pow_sub_one_eq_mod _ 4

/-- The truncated number in arithmetic (R114). -/
theorem dynTrunc_eq (d : List Byte) :
    dynTrunc d = (d.getD (truncOffset d) 0).toNat % 128 * 2 ^ 24 + (d.getD (truncOffset d + 1) 0).toNat * 2 ^ 16 +
      (d.getD (truncOffset d + 2) 0).toNat * 2 ^ 8 + (d.getD (truncOffset d + 3) 0).toNat := by
  have hmask : ∀ b : Byte, (b &&& 0x7F).toNat = b.toNat % 128 := fun b => by
    rw [BitVec.toNat_and]
    exact Nat.and_two_pow_sub_one_eq_mod _ 7
  rw [dynTrunc, hmask]

/-- The truncated number has 31 bits (R114). -/
theorem dynTrunc_lt (d : List Byte) : dynTrunc d < 2 ^ 31 := by
  rw [dynTrunc_eq]
  have h1 := (d.getD (truncOffset d + 1) 0).isLt
  have h2 := (d.getD (truncOffset d + 2) 0).isLt
  have h3 := (d.getD (truncOffset d + 3) 0).isLt
  omega

/-- The ASCII code of a decimal digit fits a byte (R117). -/
theorem toNat_asciiDigit (x : Nat) : (BitVec.ofNat 8 (0x30 + x % 10)).toNat = 0x30 + x % 10 :=
  Nat.mod_eq_of_lt (by omega)

/-- Digit `k` of a rendered code, as a number (R117). -/
theorem toNat_getD_render {c n k : Nat} (h : k < n) :
    ((render c n).getD k 0).toNat = 0x30 + c / 10 ^ (n - 1 - k) % 10 := by
  rw [getD_render h, toNat_asciiDigit]

/-- Every byte of a rendered code is an ASCII digit (R117). -/
theorem mem_render_bounds {c n : Nat} {b : Byte} (h : b ∈ render c n) : 0x30 ≤ b.toNat ∧ b.toNat ≤ 0x39 := by
  obtain ⟨k, -, rfl⟩ := List.mem_map.1 h
  rw [toNat_asciiDigit]
  omega

/-- The last digit of a rendered code, and the digits before it. -/
theorem render_succ (c n : Nat) : render c (n + 1) = render (c / 10) n ++ [BitVec.ofNat 8 (0x30 + c % 10)] := by
  rw [render, List.range_succ, List.map_append, render]
  congr 1
  · refine List.map_congr_left fun k hk => ?_
    have hk := List.mem_range.1 hk
    rw [Nat.div_div_eq_div_mul, ← pow_succ', show n - 1 - k + 1 = n + 1 - 1 - k by omega]
  · simp

/-- The digits of a rendered code, read in decimal, give the code back (R117). -/
theorem foldl_render {c n : Nat} (h : c < 10 ^ n) :
    (render c n).foldl (fun a b => a * 10 + (b.toNat - 0x30)) 0 = c := by
  induction n generalizing c with
  | zero => simpa [render, eq_comm] using h
  | succ n ih =>
    have hdiv : c / 10 < 10 ^ n := Nat.div_lt_of_lt_mul (by rwa [← pow_succ'])
    rw [render_succ, List.foldl_append, ih hdiv, List.foldl_cons, List.foldl_nil, toNat_asciiDigit]
    omega

end Sys2Proof.Machine

namespace Sys2Proof

open Sys2Proof.Machine

/-- Settles O43: byte by byte, and the bytes of a word determine it. -/
theorem movingFactorIsEncodedInEightBytes : Obligations.MovingFactorIsEncodedInEightBytes :=
  ⟨fun f => ⟨length_enc64 f, fun _ hk => getD_enc64 hk f⟩, fun _ _ h => bytesBE_injective (by decide) h⟩

/-- Settles O44: the length of a digest is that of the words it is written from. -/
theorem digestsHaveTheirLength : Obligations.DigestsHaveTheirLength :=
  ⟨fun _ => rfl, fun _ => rfl, fun _ => rfl, length_hash .sha1, length_hash .sha256, length_hash .sha512,
    rfl, rfl, rfl, rfl, rfl, rfl, rfl, rfl, rfl⟩

/-- Settles O45 with the model's block-sized key as K0. -/
theorem hmacIsTheKeyedHash : Obligations.HmacIsTheKeyedHash := by
  intro alg key msg
  refine ⟨hmacKey alg key, hmacKey_of_long, hmacKey_of_short, length_hmacKey alg key, ?_, length_hmac alg key msg⟩
  rw [zipWith_xor_hmacKey, zipWith_xor_hmacKey, hmac]

/-- Settles O46: the model's masks are remainders by powers of two. -/
theorem truncationGivesA31BitNumber : Obligations.TruncationGivesA31BitNumber :=
  fun d => ⟨truncOffset_eq d, dynTrunc_eq d, dynTrunc_lt d⟩

/-- Settles O48; the last clause by induction on the number of digits. -/
theorem renderWritesTheDecimalDigits : Obligations.RenderWritesTheDecimalDigits :=
  fun c n => ⟨length_render c n, fun _ hk => toNat_getD_render hk, fun _ hb => mem_render_bounds hb, foldl_render⟩

end Sys2Proof
end

section
/-! SUPPORT. A generate (spec/40_hotp_core.md R119): CODE holds the code whole, RESULT its digits and then 0x00. -/

namespace Sys2Proof.Machine

/-- A code has at most 31 bits, so CODE holds it whole (10_state.md R32). -/
theorem codeAt_lt (f : DWord) (s : State) : s.codeAt f < 2 ^ 31 :=
  lt_of_le_of_lt (Nat.mod_le _ _) (dynTrunc_lt _)

/-- CODE after a generate, as a number. -/
theorem generateAt_code_toNat (f : DWord) (s : State) : (s.generateAt f).code.toNat = s.codeAt f := by
  rw [generateAt_code, BitVec.toNat_ofNat, Nat.mod_eq_of_lt (lt_trans (codeAt_lt f s) (by decide))]

/-- RESULT after a generate: the digits of the code below DIGITS, 0x00 above (R119). -/
theorem generateAt_bufByte_result (f : DWord) {s : State} (hm : s.mem.wf) (hd : s.digits.toNat ≤ s.params.maxDigits)
    (k : Nat) : (s.generateAt f).bufByte .result k = (render (s.codeAt f) s.digits.toNat).getD k 0 := by
  have hbuf : (s.generateAt f).bufByte .result k =
      (s.setResult (s.codeAt f) (render (s.codeAt f) s.digits.toNat)).bufByte .result k := by
    simp only [State.bufByte, generateAt_mem, generateAt_params, setResult_params]
  rw [hbuf, setResult_bufByte _ _ hm]
  split
  · rfl
  · exact (List.getD_eq_default _ _ (by rw [length_render]; omega)).symm

/-- A generate at any moving factor leaves what R119 says. -/
theorem generatedAt_generateAt (f : DWord) {s : State} (hm : s.mem.wf) (hd : s.digits.toNat ≤ s.params.maxDigits) :
    GeneratedAt f s (s.generateAt f) := by
  refine ⟨generateAt_code_toNat f s, fun k hk => ?_, fun k hk => ?_, ?_, ?_, ?_, ?_, ?_, ?_, fun a ha => ?_⟩
  · rw [generateAt_bufByte_result f hm hd, generateAt_code_toNat, toNat_getD_render hk]
  · rw [generateAt_bufByte_result f hm hd, List.getD_eq_default _ _ (by simpa using hk)]
  · rw [generateAt_lastCtrHi, generateAt_lastCtrLo]
    exact lastCtr_halves f
  · simp [CompletedWith]
  · simp [SameConfig]
  · simp [SameHostRegs]
  · simp [SameLatches]
  · simp [SameOutside]
  · rw [generateAt_mem, setResult_read_other _ _ _ ha]

end Sys2Proof.Machine

namespace Sys2Proof

open Sys2Proof.Machine

/-- Settles O26: HOTP_GENERATE is the generate at ARG64. -/
theorem hotpGenerateGivesThePassword : Obligations.HotpGenerateGivesThePassword := by
  refine ⟨by decide, fun s hinv hm => ⟨_, rfl, generatedAt_generateAt _ hm ?_⟩⟩
  obtain ⟨-, -, hd, -⟩ := hinv
  exact hd

end Sys2Proof
end

section
/-! SUPPORT. Padding to whole blocks (spec/41_hash_functions.md R141, R142), at any block length and any shorter length
field. -/

namespace Sys2Proof.Machine

/-- The length field holds the bit length, most significant byte first. -/
theorem padMessage_eq (b n : Nat) (m : List Byte) :
    padMessage b n m = m ++ [0x80] ++ List.replicate (padZeros b n m.length) 0 ++
      (List.range n).map fun k => BitVec.ofNat 8 (8 * m.length / 256 ^ (n - 1 - k)) := by
  rw [padMessage, bytesBE_ofNat]

@[simp] theorem length_padMessage (b n : Nat) (m : List Byte) :
    (padMessage b n m).length = m.length + 1 + padZeros b n m.length + n := by
  simp only [padMessage, List.length_append, List.length_replicate, List.length_singleton, length_bytesBE]

/-- The zero bytes leave room for exactly the length field at the end of a block. -/
theorem padZeros_fills {b n : Nat} (hn : 0 < n) (hb : n < b) (len : Nat) :
    (len + 1 + padZeros b n len) % b = b - n := by
  have hr : len % b < b := Nat.mod_lt _ (by omega)
  have hdiv := Nat.div_add_mod len b
  calc (len + 1 + padZeros b n len) % b
      = (len + 1 + (b - n + b - 1 - len % b)) % b := by rw [padZeros, Nat.add_mod_mod]
    _ = (b - n + b + b * (len / b)) % b := by congr 1; omega
    _ = b - n := by rw [Nat.add_mul_mod_self_left, Nat.add_mod_right, Nat.mod_eq_of_lt (by omega)]

/-- No fewer zero bytes do so: two such numbers below the block length are equal. -/
theorem padZeros_minimal {b n : Nat} (hn : 0 < n) (hb : n < b) (len : Nat) {q : Nat} (hq : q < padZeros b n len) :
    (len + 1 + q) % b ≠ b - n := by
  intro h
  have hlt : padZeros b n len < b := Nat.mod_lt _ (by omega)
  have hmod : len + 1 + q ≡ len + 1 + padZeros b n len [MOD b] := h.trans (padZeros_fills hn hb len).symm
  exact hq.ne ((Nat.ModEq.add_left_cancel' _ hmod).eq_of_lt_of_lt (hq.trans hlt) hlt)

/-- A padded message has whole blocks. -/
theorem length_padMessage_mod {b n : Nat} (hn : 0 < n) (hb : n < b) (m : List Byte) :
    (padMessage b n m).length % b = 0 := by
  rw [length_padMessage, Nat.add_mod, padZeros_fills hn hb, Nat.mod_eq_of_lt hb, Nat.sub_add_cancel hb.le, Nat.mod_self]

/-- The blocks of a padded message hold every byte of it. -/
theorem length_blocksOf_padMessage {b n : Nat} (hn : 0 < n) (hb : n < b) (m : List Byte) :
    (blocksOf b (padMessage b n m)).length * b = m.length + 1 + padZeros b n m.length + n := by
  have hdvd : b ∣ (padMessage b n m).length := Nat.dvd_of_mod_eq_zero (length_padMessage_mod hn hb m)
  rw [blocksOf, List.length_map, List.length_range, Nat.div_mul_cancel hdvd, length_padMessage]

end Sys2Proof.Machine

namespace Sys2Proof

open Sys2Proof.Machine

/-- Settles O53: both paddings are the one for blocks of `b` bytes with a length field of `n` bytes. -/
theorem paddingFillsWholeBlocks : Obligations.PaddingFillsWholeBlocks := by
  intro m
  refine ⟨⟨padZeros 64 8 m.length, padMessage_eq 64 8 m, padZeros_fills (by decide) (by decide) _,
      fun q hq => padZeros_minimal (by decide) (by decide) _ hq, ?_, fun b => length_of_mem_blocksOf,
      flatten_blocksOf (length_padMessage_mod (by decide) (by decide) m)⟩,
    ⟨padZeros 128 16 m.length, padMessage_eq 128 16 m, padZeros_fills (by decide) (by decide) _,
      fun q hq => padZeros_minimal (by decide) (by decide) _ hq, ?_, fun b => length_of_mem_blocksOf,
      flatten_blocksOf (length_padMessage_mod (by decide) (by decide) m)⟩⟩
  · rw [length_blocksOf_padMessage (by decide) (by decide)]; omega
  · rw [length_blocksOf_padMessage (by decide) (by decide)]; omega

end Sys2Proof
end

section
/-! SUPPORT. Hash values given out as bytes (spec/41_hash_functions.md R143): the words in order, each big-endian. -/

namespace Sys2Proof.Machine

/-- A digest is the bytes of its words in order. -/
theorem Sha1Value.bytes_eq (h : Sha1Value) : h.bytes = [h.a, h.b, h.c, h.d, h.e].flatMap (bytesBE 4) := by
  simp [Sha1Value.bytes]

/-- A digest is the bytes of its words in order. -/
theorem Sha2Value.bytes_eq {w : Nat} (n : Nat) (s : Sha2Value w) :
    s.bytes n = [s.a, s.b, s.c, s.d, s.e, s.f, s.g, s.h].flatMap (bytesBE n) := by
  simp [Sha2Value.bytes]

/-- Byte `j` of word `i` in the bytes of a list of words. -/
theorem getD_flatMap_bytesBE {w n : Nat} (ws : List (BitVec w)) {i j : Nat} (hi : i < ws.length) (hj : j < n) :
    (ws.flatMap (bytesBE n)).getD (n * i + j) 0 = (ws.getD i 0).extractLsb' (8 * (n - 1 - j)) 8 := by
  induction ws generalizing i with
  | nil => simp at hi
  | cons x ws ih =>
    rw [List.flatMap_cons]
    cases i with
    | zero => rw [Nat.mul_zero, Nat.zero_add, List.getD_append _ _ _ _ (by simpa using hj), getD_bytesBE hj]; rfl
    | succ i =>
      rw [List.getD_append_right _ _ _ _ (by rw [length_bytesBE, Nat.mul_succ]; omega), length_bytesBE,
        show n * (i + 1) + j - n = n * i + j by rw [Nat.mul_succ]; omega, ih (by simpa using hi), List.getD_cons_succ]

end Sys2Proof.Machine

namespace Sys2Proof

open Sys2Proof.Machine

/-- Settles O59: the words of a block and the bytes of a digest, byte by byte. -/
theorem wordsAreBigEndianInBlocksAndDigests : Obligations.WordsAreBigEndianInBlocksAndDigests := by
  refine ⟨fun block hl => ⟨length_blockWords 32 4 block, fun t ht j hj => ?_⟩,
    fun block hl => ⟨length_blockWords 64 8 block, fun t ht j hj => ?_⟩,
    fun h => ⟨h.length_bytes, fun i hi j hj => ?_⟩, fun h => ⟨h.length_bytes 4, fun i hi j hj => ?_⟩,
    fun h => ⟨h.length_bytes 8, fun i hi j hj => ?_⟩⟩
  · rw [show 24 - 8 * j = 8 * (4 - 1 - j) by omega, getD_blockWords hl (by decide) ht hj]
  · rw [show 56 - 8 * j = 8 * (8 - 1 - j) by omega, getD_blockWords hl (by decide) ht hj]
  · rw [h.bytes_eq, getD_flatMap_bytesBE _ hi hj, show 24 - 8 * j = 8 * (4 - 1 - j) by omega]
  · rw [h.bytes_eq, getD_flatMap_bytesBE _ hi hj, show 24 - 8 * j = 8 * (4 - 1 - j) by omega]
  · rw [h.bytes_eq, getD_flatMap_bytesBE _ hi hj, show 56 - 8 * j = 8 * (8 - 1 - j) by omega]

end Sys2Proof
end

section
/-! SUPPORT. The message schedules (spec/41_hash_functions.md R146, R153, R159): a schedule begins with the words of the
block, and each later word is made from the words at fixed distances before it. -/

namespace Sys2Proof.Machine

/-- A schedule begins with the words it is given. -/
theorem getD_schedule_of_lt {w : Nat} (next : List (BitVec w) → BitVec w) (k : Nat) (m : List (BitVec w)) {t : Nat}
    (h : t < m.length) : (extendSchedule next k m.reverse).reverse.getD t 0 = m.getD t 0 := by
  have := (getD_extendSchedule next k m.reverse).1 t (by simpa using h)
  rwa [List.reverse_reverse] at this

/-- A later word of a schedule is what `next` makes of words whose `n`-th back is the word `n` before it. -/
theorem getD_schedule_of_le {w : Nat} {next : List (BitVec w) → BitVec w} {k : Nat} {m s : List (BitVec w)}
    (hs : s = (extendSchedule next k m.reverse).reverse) {t : Nat} (h : m.length ≤ t) (h' : t < k + m.length) :
    ∃ us : List (BitVec w), (∀ n, 0 < n → n ≤ t → back us n = s.getD (t - n) 0) ∧ s.getD t 0 = next us := by
  subst hs
  obtain ⟨us, -, hus, hnext⟩ := (getD_extendSchedule next k m.reverse).2 t (by simpa using h) (by simpa using h')
  refine ⟨us, fun n hn hnt => ?_, hnext⟩
  rw [← hus (t - n) (by omega), back, show t - 1 - (t - n) = n - 1 by omega]

@[simp] theorem length_sha1Schedule (m : List Word) : (sha1Schedule m).length = 64 + m.length := by simp [sha1Schedule]

/-- The recurrence of the SHA-1 schedule (R146). -/
theorem getD_sha1Schedule {m : List Word} (hm : m.length = 16) {t : Nat} (h : 16 ≤ t) (h' : t < 80) :
    (sha1Schedule m).getD t 0 = ((sha1Schedule m).getD (t - 3) 0 ^^^ (sha1Schedule m).getD (t - 8) 0 ^^^
      (sha1Schedule m).getD (t - 14) 0 ^^^ (sha1Schedule m).getD (t - 16) 0).rotateLeft 1 := by
  obtain ⟨us, hback, hnext⟩ := getD_schedule_of_le (s := sha1Schedule m) rfl (t := t) (by omega) (by omega)
  rw [hnext, sha1Next, rotl_eq (by decide) (by decide), hback 3 (by decide) (by omega), hback 8 (by decide) (by omega),
    hback 14 (by decide) (by omega), hback 16 (by decide) (by omega)]

@[simp] theorem length_sha2Schedule {w : Nat} (v : Sha2Variant w) (m : List (BitVec w)) :
    (sha2Schedule v m).length = v.k.length - 16 + m.length := by simp [sha2Schedule]

/-- The recurrence of a SHA-2 schedule, at either width (R153, R159). -/
theorem getD_sha2Schedule {w : Nat} (v : Sha2Variant w) {m : List (BitVec w)} (hm : m.length = 16) {t : Nat}
    (h : 16 ≤ t) (h' : t < v.k.length) :
    (sha2Schedule v m).getD t 0 =
      v.sigma1.shifts ((sha2Schedule v m).getD (t - 2) 0) + (sha2Schedule v m).getD (t - 7) 0 +
      v.sigma0.shifts ((sha2Schedule v m).getD (t - 15) 0) + (sha2Schedule v m).getD (t - 16) 0 := by
  obtain ⟨us, hback, hnext⟩ := getD_schedule_of_le (s := sha2Schedule v m) rfl (t := t) (by omega) (by omega)
  rw [hnext, sha2Next, hback 2 (by decide) (by omega), hback 7 (by decide) (by omega), hback 15 (by decide) (by omega),
    hback 16 (by decide) (by omega)]

/-- σ in the library's rotations and shift. -/
theorem Sha2Amounts.shifts_eq {w : Nat} {r : Sha2Amounts} (hx : r.x < w) (hy : r.y < w) (x : BitVec w) :
    r.shifts x = x.rotateRight r.x ^^^ x.rotateRight r.y ^^^ (x >>> r.z) := by
  rw [Sha2Amounts.shifts, rotr_eq hx, rotr_eq hy, shr]

/-- Σ in the library's rotations. -/
theorem Sha2Amounts.rotations_eq {w : Nat} {r : Sha2Amounts} (hx : r.x < w) (hy : r.y < w) (hz : r.z < w)
    (x : BitVec w) : r.rotations x = x.rotateRight r.x ^^^ x.rotateRight r.y ^^^ x.rotateRight r.z := by
  rw [Sha2Amounts.rotations, rotr_eq hx, rotr_eq hy, rotr_eq hz]

@[simp] theorem length_sha256Variant_k : sha256Variant.k.length = 64 := rfl

@[simp] theorem length_sha512Variant_k : sha512Variant.k.length = 80 := rfl

end Sys2Proof.Machine

namespace Sys2Proof

open Sys2Proof.Machine

/-- Settles O54 with the recurrence of the schedule. -/
theorem sha1ScheduleFollowsItsRecurrence : Obligations.Sha1ScheduleFollowsItsRecurrence :=
  fun m hm => ⟨by rw [length_sha1Schedule, hm], fun _ ht => getD_schedule_of_lt _ _ m (by omega),
    fun _ => getD_sha1Schedule hm⟩

/-- Settles O55: the recurrence of either width, and σ0 and σ1 of each hash in the library's rotations. -/
theorem sha2SchedulesFollowTheirRecurrences : Obligations.Sha2SchedulesFollowTheirRecurrences := by
  refine ⟨fun m hm => ⟨by simp [hm], fun _ ht => getD_schedule_of_lt _ _ m (by omega), fun t h h' => ?_⟩,
    fun m hm => ⟨by simp [hm], fun _ ht => getD_schedule_of_lt _ _ m (by omega), fun t h h' => ?_⟩⟩
  · have hrec := getD_sha2Schedule sha256Variant hm h h'
    rwa [Sha2Amounts.shifts_eq (by decide) (by decide), Sha2Amounts.shifts_eq (by decide) (by decide)] at hrec
  · have hrec := getD_sha2Schedule sha512Variant hm h h'
    rwa [Sha2Amounts.shifts_eq (by decide) (by decide), Sha2Amounts.shifts_eq (by decide) (by decide)] at hrec

end Sys2Proof
end

section
/-! SUPPORT. The compression of a block (spec/41_hash_functions.md R144, R145, R147, R154, R160): its rounds by their
numbers, in the library's rotations. -/

namespace Sys2Proof.Machine

/-- f_t by its number: Ch, then Maj between rounds 40 and 60, Parity elsewhere (R145). -/
theorem sha1F_eq (t : Nat) (b c d : Word) : sha1F t b c d =
    if t < 20 then (b &&& c) ^^^ (~~~b &&& d)
    else if 40 ≤ t ∧ t < 60 then (b &&& c) ^^^ (b &&& d) ^^^ (c &&& d) else b ^^^ c ^^^ d := by
  rw [sha1F]
  by_cases h20 : t < 20
  · rw [if_pos h20, if_pos h20, ch]
  rw [if_neg h20, if_neg h20]
  by_cases h40 : t < 40
  · rw [if_pos h40, if_neg (by omega), parity]
  rw [if_neg h40]
  by_cases h60 : t < 60
  · rw [if_pos h60, if_pos ⟨Nat.not_lt.1 h40, h60⟩, maj]
  · rw [if_neg h60, if_neg (by omega), parity]

/-- A round in the library's rotations (R147). -/
theorem sha1Round_eq (t : Nat) (wt : Word) (h : Sha1Value) : sha1Round t wt h =
    { a := h.a.rotateLeft 5 + sha1F t h.b h.c h.d + h.e + sha1K t + wt, b := h.a, c := h.b.rotateLeft 30, d := h.c,
      e := h.d } := by
  rw [sha1Round, rotl_eq (by decide) (by decide), rotl_eq (by decide) (by decide)]

/-- The rounds of a block, one for each word of its schedule (R147). -/
theorem sha1Rounds_schedule (h : Sha1Value) (block : List Byte) :
    sha1Rounds 0 (sha1Schedule (blockWords 32 4 block)) h =
      (List.range 80).foldl (fun v t => sha1Round t ((sha1Schedule (blockWords 32 4 block)).getD t 0) v) h := by
  rw [sha1Rounds_eq, length_sha1Schedule, length_blockWords]
  simp only [Nat.zero_add]

/-- The rounds of a block, one for each round constant, at either width (R154, R160). -/
theorem sha2Rounds_schedule {w : Nat} (v : Sha2Variant w) (hk : 16 ≤ v.k.length) (n : Nat) (s : Sha2Value w)
    (block : List Byte) :
    sha2Rounds v v.k (sha2Schedule v (blockWords w n block)) s =
      (List.range v.k.length).foldl
        (fun s t => sha2Round v (v.k.getD t 0) ((sha2Schedule v (blockWords w n block)).getD t 0) s) s := by
  have hlen : (sha2Schedule v (blockWords w n block)).length = v.k.length := by
    rw [length_sha2Schedule, length_blockWords, Nat.sub_add_cancel hk]
  rw [sha2Rounds_eq v _ _ hlen.symm, hlen]

end Sys2Proof.Machine

namespace Sys2Proof

open Sys2Proof.Machine

/-- Settles O56: round by round, and the digest from the words the blocks leave. -/
theorem sha1BlockIsItsEightyRounds : Obligations.Sha1BlockIsItsEightyRounds := by
  refine ⟨fun h block => ?_, fun m => Sha1Value.bytes_eq _⟩
  simp only [sha1Block, sha1Rounds_schedule, sha1Round_eq, sha1F_eq, sha1K]

/-- Settles O57: round by round at either width, and the digests from the words the blocks leave. -/
theorem sha2BlocksAreTheirRounds : Obligations.Sha2BlocksAreTheirRounds := by
  refine ⟨fun h block => ?_, fun h block => ?_, fun m => Sha2Value.bytes_eq 4 _, fun m => Sha2Value.bytes_eq 8 _⟩
  · have hS0 := Sha2Amounts.rotations_eq (r := sha256Variant.bigSigma0) (w := 32) (by decide) (by decide) (by decide)
    have hS1 := Sha2Amounts.rotations_eq (r := sha256Variant.bigSigma1) (w := 32) (by decide) (by decide) (by decide)
    simp only [sha2Block, sha2Rounds_schedule sha256Variant (by decide), length_sha256Variant_k, sha2Round, hS0, hS1]
    rfl
  · have hS0 := Sha2Amounts.rotations_eq (r := sha512Variant.bigSigma0) (w := 64) (by decide) (by decide) (by decide)
    have hS1 := Sha2Amounts.rotations_eq (r := sha512Variant.bigSigma1) (w := 64) (by decide) (by decide) (by decide)
    simp only [sha2Block, sha2Rounds_schedule sha512Variant (by decide), length_sha512Variant_k, sha2Round, hS0, hS1]
    rfl

end Sys2Proof
end

section
/-! SUPPORT. The constants of SHA-2 (spec/41_hash_functions.md R149 to R151, R156, R157): the transcribed tables are
what the rule of R149 gives, and the rule's roots round down. -/

namespace Sys2Proof.Machine

theorem isPrime_iff {p : Nat} : isPrime p = true ↔ Nat.Prime p := by
  rw [Nat.prime_def_lt', isPrime, Bool.and_eq_true, decide_eq_true_iff, List.all_eq_true]
  refine and_congr_right fun _ => ⟨fun h d hd hdp hdvd => ?_, fun h d hd => ?_⟩
  · have := h d (List.mem_range.2 hdp)
    simp [Nat.not_lt.2 hd, Nat.mod_eq_zero_of_dvd hdvd] at this
  · by_cases hd2 : d < 2
    · simp [hd2]
    · have := h d (Nat.not_lt.1 hd2) (List.mem_range.1 hd)
      simpa [hd2, Nat.dvd_iff_mod_eq_zero] using this

/-- The list holds the primes below 410 and nothing else. -/
theorem mem_primes {p : Nat} : p ∈ primes ↔ Nat.Prime p ∧ p < 410 := by
  rw [primes, List.mem_filter, List.mem_range, isPrime_iff, and_comm]

theorem primes_pairwise : primes.Pairwise (· < ·) := List.pairwise_lt_range.filter _

/-- The eighty primes of R149. The tables below are compared with the rule on this list, so that the trial divisions are
evaluated once. -/
theorem primes_eq : primes =
    [2, 3, 5, 7, 11, 13, 17, 19, 23, 29, 31, 37, 41, 43, 47, 53, 59, 61, 67, 71, 73, 79, 83, 89, 97, 101, 103, 107, 109,
      113, 127, 131, 137, 139, 149, 151, 157, 163, 167, 173, 179, 181, 191, 193, 197, 199, 211, 223, 227, 229, 233, 239,
      241, 251, 257, 263, 269, 271, 277, 281, 283, 293, 307, 311, 313, 317, 331, 337, 347, 349, 353, 359, 367, 373, 379,
      383, 389, 397, 401, 409] := by decide +kernel

@[simp] theorem length_primes : primes.length = 80 := by rw [primes_eq]; rfl

theorem getD_primes_lt (t : Nat) : primes.getD t 0 < 410 := by
  rw [List.getD_eq_getElem?_getD]
  cases h : primes[t]? with
  | none => decide
  | some p => exact (mem_primes.1 (List.mem_of_getElem? h)).2

/-- The integer square root rounds down (R149). -/
theorem isqrt_bounds {x : Nat} (h : x < 2 ^ 160) : isqrt x ^ 2 ≤ x ∧ x < (isqrt x + 1) ^ 2 :=
  integerRoot_bounds 2 x 80 0 (Nat.zero_le _) (by rwa [Nat.zero_add, ← pow_mul])

/-- The integer cube root rounds down (R149). -/
theorem icbrt_bounds {x : Nat} (h : x < 2 ^ 240) : icbrt x ^ 3 ≤ x ∧ x < (icbrt x + 1) ^ 3 :=
  integerRoot_bounds 3 x 80 0 (Nat.zero_le _) (by rwa [Nat.zero_add, ← pow_mul])

/-- The transcribed initial value of SHA-256 is what the rule gives (R149, R150). -/
theorem sha256Init_eq_rule : [sha256Init.a, sha256Init.b, sha256Init.c, sha256Init.d, sha256Init.e, sha256Init.f,
    sha256Init.g, sha256Init.h] = h256Rule := by
  rw [h256Rule, primes_eq]
  decide +kernel

/-- The transcribed round constants of SHA-256 are what the rule gives (R149, R151). -/
theorem sha256K_eq_rule : sha256K = k256Rule := by
  rw [k256Rule, primes_eq]
  decide +kernel

/-- The transcribed initial value of SHA-512 is what the rule gives (R149, R156). -/
theorem sha512Init_eq_rule : [sha512Init.a, sha512Init.b, sha512Init.c, sha512Init.d, sha512Init.e, sha512Init.f,
    sha512Init.g, sha512Init.h] = h512Rule := by
  rw [h512Rule, primes_eq]
  decide +kernel

/-- The transcribed round constants of SHA-512 are what the rule gives (R149, R157). -/
theorem sha512K_eq_rule : sha512K = k512Rule := by
  rw [k512Rule, primes_eq]
  decide +kernel

/-- Entry `t` of a table that a rule makes of the first `n` primes is the low bits of the root of its prime, for any
`root` that rounds down. -/
theorem exists_root_of_table {w n c e : Nat} {root : Nat → Nat} {table : List (BitVec w)}
    (hroot : ∀ p < 410, root (p * 2 ^ c) ^ e ≤ p * 2 ^ c ∧ p * 2 ^ c < (root (p * 2 ^ c) + 1) ^ e)
    (htable : table = (primes.take n).map fun p => BitVec.ofNat w (root (p * 2 ^ c))) (hn : n ≤ 80) {t : Nat}
    (ht : t < n) : ∃ r, r ^ e ≤ primes.getD t 0 * 2 ^ c ∧ primes.getD t 0 * 2 ^ c < (r + 1) ^ e ∧
      table.getD t 0 = BitVec.ofNat w r := by
  obtain ⟨hle, hlt⟩ := hroot _ (getD_primes_lt t)
  have ht' : t < primes.length := by rw [length_primes]; omega
  refine ⟨_, hle, hlt, ?_⟩
  rw [htable, List.getD_eq_getElem _ _ (by simp; omega), List.getElem_map, List.getElem_take,
    List.getD_eq_getElem _ _ ht']

end Sys2Proof.Machine

namespace Sys2Proof

open Sys2Proof.Machine

/-- Settles O58: the tables are what the rule gives, and its roots are the integer roots. -/
theorem sha2ConstantsAreRootsOfThePrimes : Obligations.Sha2ConstantsAreRootsOfThePrimes := by
  refine ⟨length_primes, primes_pairwise, fun p => mem_primes, fun j => ?_, fun t => ?_, fun j => ?_, fun t => ?_⟩
  · exact exists_root_of_table (fun p hp => isqrt_bounds (by omega)) sha256Init_eq_rule (by decide)
  · exact exists_root_of_table (fun p hp => icbrt_bounds (by omega)) sha256K_eq_rule (by decide)
  · exact exists_root_of_table (fun p hp => isqrt_bounds (by omega)) sha512Init_eq_rule (by decide)
  · exact exists_root_of_table (fun p hp => icbrt_bounds (by omega)) sha512K_eq_rule le_rfl

end Sys2Proof
end

section
/-! SUPPORT. The window and a verify over it (spec/42_window_verifier.md R180 to R186): the factors scanned, and that
MATCH says whether the candidate is the password of one of them. -/

namespace Sys2Proof.Machine

/-- The factors scanned are the 64-bit counters at most `w` steps from the centre (R183). -/
theorem mem_windowFactors {c f : DWord} {w : Nat} :
    f ∈ windowFactors c w ↔ ∃ o : Int, -(w : Int) ≤ o ∧ o ≤ (w : Int) ∧ (f.toNat : Int) = (c.toNat : Int) + o := by
  simp only [windowFactors, List.mem_filterMap, List.mem_range, windowFactor_eq_some]
  constructor
  · rintro ⟨i, hi, hf⟩
    exact ⟨(i : Int) - w, by omega, by omega, hf⟩
  · rintro ⟨o, hlo, hhi, hf⟩
    exact ⟨(o + w).toNat, by omega, by omega⟩

/-- The window always contains its centre (R183). -/
theorem self_mem_windowFactors (c : DWord) (w : Nat) : c ∈ windowFactors c w :=
  mem_windowFactors.2 ⟨0, by omega, by omega, by omega⟩

/-- The scan accepts a candidate that is the password of some factor of the window (R184). -/
theorem windowVerify_eq_true_iff {alg : Alg} {key : List Byte} {n : Nat} {cand : Candidate} {c : DWord} {w : Nat} :
    windowVerify alg key n cand c w = true ↔
      ∃ f ∈ windowFactors c w, candidateEq cand n (hotp alg key f n) = true := by
  rw [windowVerify, List.any_eq_true]

/-- Byte `k` of the candidate is byte `k` of CAND, beyond the capacity too, where both are 0x00 (R180). -/
theorem getD_candidate_bytes (s : State) (k : Nat) : s.candidate.bytes.getD k 0 = s.bufByte .cand k := by
  by_cases hk : k < s.params.maxDigits
  · simp [State.candidate, hk]
  · rw [bufByte_beyond (by simpa [Buffer.cap] using hk)]
    simp [State.candidate, hk]

/-- The comparison of the machine's candidate with a factor's password is the rule's (R181). -/
theorem candidateEq_candidate_iff {s : State} {f : DWord} :
    candidateEq s.candidate s.digits.toNat (hotp s.alg s.secret f s.digits.toNat) = true ↔ CandidateIs s f := by
  have hlen : s.candidate.len = s.digits.toNat ↔ s.candLen = s.digits := BitVec.toNat_inj
  simp only [candidateEq_iff, getD_candidate_bytes, hlen, CandidateIs]

/-- MATCH around the centre `c`: the candidate is the password of some factor of the window (R186). -/
theorem matchesAt_eq_true_iff {s : State} {c : DWord} :
    s.matchesAt c = true ↔ ∃ f, InWindow s c f ∧ CandidateIs s f := by
  simp only [State.matchesAt, windowVerify_eq_true_iff, mem_windowFactors, candidateEq_candidate_iff, InWindow]

/-- A verify around any centre leaves what R186 says. -/
theorem verifiedAt_verifyAt (c : DWord) (s : State) : VerifiedAt c s (s.verifyAt c) := by
  refine ⟨?_, ?_, verifyAt_code c s, ?_, ?_, ?_, ?_, fun a => ?_, ?_⟩
  · rw [verifyAt_status, completed_matched, withMatch_matched, matchesAt_eq_true_iff]
  · rw [verifyAt_lastCtrHi, verifyAt_lastCtrLo]
    exact lastCtr_halves c
  · simp [CompletedWith]
  · simp [SameConfig]
  · simp [SameHostRegs]
  · simp [SameLatches]
  · rw [verifyAt_mem]
  · simp [SameOutside]

end Sys2Proof.Machine

namespace Sys2Proof

open Sys2Proof.Machine

/-- Settles O49: an index of the scan is an offset shifted by `w`. -/
theorem windowIsTheFactorsInRange : Obligations.WindowIsTheFactorsInRange :=
  fun c w => ⟨fun _ => mem_windowFactors, self_mem_windowFactors c w⟩

/-- Settles O29: HOTP_VERIFY is the verify at ARG64. -/
theorem hotpVerifyScansTheWindow : Obligations.HotpVerifyScansTheWindow :=
  ⟨by decide, fun s => ⟨_, rfl, verifiedAt_verifyAt s.arg64 s⟩⟩

end Sys2Proof
end

section
/-! SUPPORT. The TOTP commands (spec/43_totp_core.md R213 to R216): each is a generate or a verify at the time-step
counter of its time, and under the configuration invariants that counter is the floor of the division by INTERVAL. -/

namespace Sys2Proof.Machine

/-- With an interval other than 0 the time-step counter is the quotient (R210), and no free value. -/
theorem counterOf_eq {i : Word} (h : i ≠ 0) (t : DWord) : counterOf t i = BitVec.ofNat 64 (t.toNat / i.toNat) :=
  if_neg h

end Sys2Proof.Machine

namespace Sys2Proof

open Sys2Proof.Machine

/-- RESULT has room for the password (R50). -/
theorem ConfigInv.digits_le {s : State} (h : ConfigInv s) : s.digits.toNat ≤ s.params.maxDigits := by
  obtain ⟨-, -, hd, -⟩ := h
  exact hd

/-- INTERVAL is never 0 (R50), so the counter of a time is defined. -/
theorem ConfigInv.interval_ne_zero {s : State} (h : ConfigInv s) : s.interval ≠ 0 := by
  obtain ⟨-, -, -, -, hi, -⟩ := h
  intro h0
  simp [h0] at hi

/-- The counter of any time is the floor of its division by INTERVAL. -/
theorem ConfigInv.counterOf_interval {s : State} (h : ConfigInv s) (t : DWord) :
    counterOf t s.interval = BitVec.ofNat 64 (t.toNat / s.interval.toNat) :=
  counterOf_eq h.interval_ne_zero t

/-- Settles O27: TOTP_GENERATE is the generate at the counter of ARG64. -/
theorem totpGenerateGivesThePassword : Obligations.TotpGenerateGivesThePassword := by
  refine ⟨by decide, fun s hinv hm => ⟨_, rfl, ?_⟩⟩
  rw [← arg64_toNat, ← hinv.counterOf_interval]
  exact generatedAt_generateAt _ hm hinv.digits_le

/-- Settles O28: TOTP_GENERATE_NOW is the generate at the counter of NOW_LATCH. -/
theorem totpGenerateNowGivesThePassword : Obligations.TotpGenerateNowGivesThePassword := by
  refine ⟨by decide, fun s hinv hm => ⟨_, rfl, ?_⟩⟩
  rw [← hinv.counterOf_interval]
  exact generatedAt_generateAt _ hm hinv.digits_le

/-- Settles O30: TOTP_VERIFY is the verify around the counter of ARG64. -/
theorem totpVerifyScansTheWindow : Obligations.TotpVerifyScansTheWindow := by
  refine ⟨by decide, fun s hinv => ⟨_, rfl, ?_⟩⟩
  rw [← arg64_toNat, ← hinv.counterOf_interval]
  exact verifiedAt_verifyAt _ s

/-- Settles O31: TOTP_VERIFY_NOW is the verify around the counter of NOW_LATCH. -/
theorem totpVerifyNowScansTheWindow : Obligations.TotpVerifyNowScansTheWindow := by
  refine ⟨by decide, fun s hinv => ⟨_, rfl, ?_⟩⟩
  rw [← hinv.counterOf_interval]
  exact verifiedAt_verifyAt _ s

end Sys2Proof
end

section
/-! SUPPORT. The validated setters (spec/44_configuration.md R240 to R245): for each one, the state that it commits when
its operand is legal, and the error that it raises when it is not. -/

namespace Sys2Proof.Machine

/-- The end of a completion changes STATUS and PHASE alone (30_encoding.md R99). -/
theorem sameButStatus_finish (s : State) : SameButStatus s s.finish := by
  refine ⟨?_, ?_, ?_, ?_, fun a => ?_, ?_⟩
  · simp [SameConfig]
  · simp [SameHostRegs]
  · simp [SameResultRegs]
  · simp [SameLatches]
  · rw [finish_mem]
  · simp [SameOutside]

/-- Raising an error changes STATUS and PHASE alone (60_exceptions.md R282). -/
theorem sameButStatus_raiseError (e : ErrorKind) (s : State) : SameButStatus s (s.raiseError e) :=
  sameButStatus_finish { s with status := s.status.raised e }

/-- A commit that leaves STATUS to the end of the completion ends without an error. -/
theorem completedWith_finish {s c : State} (h : c.status = s.status) :
    CompletedWith s.status.matched s c.finish := by
  simp [CompletedWith, h]

/-- Raising an error ends the completion with that error's code (60_exceptions.md R282). -/
theorem failedWith_raiseError (e : ErrorKind) (s : State) : FailedWith e.code.toNat s (s.raiseError e) := by
  simp [FailedWith]

/-- What a setter that commits the state `c` leaves. -/
theorem exists_committed {o : Host.Outcome State Fault Refusal} {s c : State} (h : o = .next c.finish)
    (hc : c.status = s.status) :
    ∃ t, o = .next t ∧ CompletedWith s.status.matched s t ∧ SameButStatus c t :=
  ⟨c.finish, h, completedWith_finish hc, sameButStatus_finish c⟩

/-- What a setter that raises the error `e` leaves. -/
theorem exists_failed {o : Host.Outcome State Fault Refusal} {s : State} {e : ErrorKind}
    (h : o = .next (s.raiseError e)) :
    ∃ t, o = .next t ∧ FailedWith e.code.toNat s t ∧ SameButStatus s t :=
  ⟨s.raiseError e, h, failedWith_raiseError e s, sameButStatus_raiseError e s⟩

/-- Different algorithms have different codes (10_state.md R23). -/
theorem Alg.code_injective : Function.Injective Alg.code := by
  intro a b
  cases a <;> cases b <;> decide

/-- The algorithm of a code is the one that has it (R242). -/
@[simp] theorem Alg.ofCode_code (a : Alg) : Alg.ofCode a.code = some a := by cases a <;> rfl

/-- The codes below 3 are those of the algorithms (R242). -/
theorem Alg.exists_code_eq {w : Word} (h : w.toNat < 3) : ∃ a : Alg, a.code = w := by
  have hw : w = 0 ∨ w = 1 ∨ w = 2 := by bv_omega
  rcases hw with rfl | rfl | rfl
  · exact ⟨.sha1, rfl⟩
  · exact ⟨.sha256, rfl⟩
  · exact ⟨.sha512, rfl⟩

/-- No code from 3 on is an algorithm's (R242). -/
theorem Alg.ofCode_of_le {w : Word} (h : 3 ≤ w.toNat) : Alg.ofCode w = none := by
  have h0 : w ≠ 0 := by bv_omega
  have h1 : w ≠ 1 := by bv_omega
  have h2 : w ≠ 2 := by bv_omega
  rw [Alg.ofCode, if_neg h0, if_neg h1, if_neg h2]

/-- Every digest passes the digest-length check of R242. -/
theorem not_digestLen_lt (a : Alg) : ¬a.digestLen < 19 := by cases a <;> decide

/-- The signed operand is the two's-complement reading of ARG_LO (30_encoding.md R95). -/
theorem argSigned_eq_toInt (s : State) : s.argSigned = s.argLo.toInt := s32_eq_toInt s.argLo

section
variable {s : State}

/-- SET_SECRET within the capacity (R241). -/
theorem exec_setSecret_of_le (h : s.argLo.toNat ≤ s.params.maxKeyBytes) :
    exec .setSecret s = .next ({ s with keyLen := s.argLo }).finish :=
  congrArg Host.Outcome.next (if_neg (Nat.not_lt.2 h))

/-- SET_SECRET beyond the capacity (R241). -/
theorem exec_setSecret_of_lt (h : s.params.maxKeyBytes < s.argLo.toNat) :
    exec .setSecret s = .next (s.raiseError .invalidSecretLength) :=
  congrArg Host.Outcome.next (if_pos h)

/-- SET_ALGORITHM at the code of an algorithm (R242). -/
theorem exec_setAlgorithm_of_code_eq {a : Alg} (h : a.code = s.argLo) :
    exec .setAlgorithm s = .next ({ s with alg := a }).finish := by
  simp [exec, execSetAlgorithm, ← h, not_digestLen_lt]

/-- SET_ALGORITHM at a code that is no algorithm's (R242). -/
theorem exec_setAlgorithm_of_le (h : 3 ≤ s.argLo.toNat) :
    exec .setAlgorithm s = .next (s.raiseError .unsupportedAlgorithm) := by
  simp [exec, execSetAlgorithm, Alg.ofCode_of_le h]

/-- SET_PASSWORD_LENGTH from 1 to the capacity (R243). -/
theorem exec_setPasswordLength_of_le (h : 1 ≤ s.argLo.toInt) (h' : s.argLo.toInt ≤ s.params.maxDigits) :
    exec .setPasswordLength s = .next ({ s with digits := s.argLo }).finish := by
  rw [← argSigned_eq_toInt] at h h'
  exact congrArg Host.Outcome.next ((if_neg (Int.not_lt.2 h)).trans (if_neg (Int.not_lt.2 h')))

/-- SET_PASSWORD_LENGTH below 1 or beyond the capacity: both checks raise the same error (R243). -/
theorem exec_setPasswordLength_of_lt (h : s.argLo.toInt < 1 ∨ (s.params.maxDigits : Int) < s.argLo.toInt) :
    exec .setPasswordLength s = .next (s.raiseError .invalidPasswordLength) := by
  rw [← argSigned_eq_toInt] at h
  refine congrArg Host.Outcome.next ?_
  split
  · rfl
  · next h1 => exact if_pos (h.resolve_left h1)

/-- SET_WINDOW_SIZE at a number that is not negative (R244). -/
theorem exec_setWindowSize_of_nonneg (h : 0 ≤ s.argLo.toInt) :
    exec .setWindowSize s = .next ({ s with window := s.argLo }).finish := by
  rw [← argSigned_eq_toInt] at h
  exact congrArg Host.Outcome.next (if_neg (Int.not_lt.2 h))

/-- SET_WINDOW_SIZE at a negative number (R244). -/
theorem exec_setWindowSize_of_neg (h : s.argLo.toInt < 0) :
    exec .setWindowSize s = .next (s.raiseError .invalidWindowSize) := by
  rw [← argSigned_eq_toInt] at h
  exact congrArg Host.Outcome.next (if_pos h)

/-- SET_INTERVAL at a positive number (R245). -/
theorem exec_setInterval_of_pos (h : 0 < s.argLo.toInt) :
    exec .setInterval s = .next ({ s with interval := s.argLo }).finish := by
  rw [← argSigned_eq_toInt] at h
  exact congrArg Host.Outcome.next (if_neg (Int.not_le.2 h))

/-- SET_INTERVAL at zero or a negative number (R245). -/
theorem exec_setInterval_of_nonpos (h : s.argLo.toInt ≤ 0) :
    exec .setInterval s = .next (s.raiseError .invalidInterval) := by
  rw [← argSigned_eq_toInt] at h
  exact congrArg Host.Outcome.next (if_pos h)

end

end Sys2Proof.Machine

namespace Sys2Proof

open Sys2Proof.Machine

/-- Settles O21: KEY_LEN is committed within the capacity, and code 5 raised beyond it. -/
theorem setSecretCommitsTheLengthOrFails : Obligations.SetSecretCommitsTheLengthOrFails :=
  ⟨by decide, fun _ => ⟨fun h => exists_committed (exec_setSecret_of_le h) rfl,
    fun h => exists_failed (exec_setSecret_of_lt h)⟩⟩

/-- Settles O22: below 3 the operand is the code of exactly one algorithm, and from 3 on of none. -/
theorem setAlgorithmSelectsTheHashOrFails : Obligations.SetAlgorithmSelectsTheHashOrFails := by
  refine ⟨by decide, fun s => ⟨fun h => ?_, fun h => exists_failed (exec_setAlgorithm_of_le h)⟩⟩
  obtain ⟨a, ha⟩ := Alg.exists_code_eq h
  obtain ⟨t, ht, hdone, hsame⟩ := exists_committed (exec_setAlgorithm_of_code_eq ha) rfl
  have hcode (b : Alg) (hb : s.argLo = b.code) : a = b := Alg.code_injective (ha.trans hb)
  exact ⟨t, a, ht, hdone, hcode .sha1, hcode .sha256, hcode .sha512, ha, hsame⟩

/-- Settles O23: DIGITS is committed from 1 to the capacity, and code 1 raised below and above. -/
theorem setPasswordLengthCommitsTheDigitsOrFails : Obligations.SetPasswordLengthCommitsTheDigitsOrFails :=
  ⟨by decide, fun _ => ⟨fun ⟨hlo, hhi⟩ => exists_committed (exec_setPasswordLength_of_le hlo hhi) rfl,
    fun h => exists_failed (exec_setPasswordLength_of_lt h)⟩⟩

/-- Settles O24: WINDOW is committed when not negative, and code 2 raised when negative. -/
theorem setWindowSizeCommitsTheWindowOrFails : Obligations.SetWindowSizeCommitsTheWindowOrFails :=
  ⟨by decide, fun _ => ⟨fun h => exists_committed (exec_setWindowSize_of_nonneg h) rfl,
    fun h => exists_failed (exec_setWindowSize_of_neg h)⟩⟩

/-- Settles O25: INTERVAL is committed when positive, and code 3 raised otherwise. -/
theorem setIntervalCommitsTheIntervalOrFails : Obligations.SetIntervalCommitsTheIntervalOrFails :=
  ⟨by decide, fun _ => ⟨fun h => exists_committed (exec_setInterval_of_pos h) rfl,
    fun h => exists_failed (exec_setInterval_of_nonpos h)⟩⟩

end Sys2Proof
end

section
/-! SUPPORT. The errors of a completion (spec/60_exceptions.md): the decoder's two outcomes, the one cause that a legal
command's operand can give, the two ways a completion ends, and the writes that a BUSY block drops. -/

namespace Sys2Proof.Machine

/-- The opcode map gives a command for that command's own OPCODE alone (30_encoding.md R91). -/
theorem eq_opcode_of_decodeOpcode_ok {op : Byte} {i : Instr} (h : decodeOpcode op = .ok i) : op = i.opcode := by
  unfold decodeOpcode at h
  split at h <;> cases h <;> exact BitVec.eq_of_toNat_eq ‹_›

/-- Every OPCODE of the table of R91 is in the opcode map. -/
theorem not_mem_of_decodeOpcode_error {op : Byte} {e : Illegal} (h : decodeOpcode op = .error e) :
    op ∉ ([0x01, 0x02, 0x03, 0x04, 0x05, 0x10, 0x11, 0x20, 0x21, 0x22, 0x23] : List Byte) := by
  intro hop
  simp only [List.mem_cons, List.not_mem_nil, or_false] at hop
  rcases hop with rfl | rfl | rfl | rfl | rfl | rfl | rfl | rfl | rfl | rfl | rfl <;> cases h

/-- A command word is its RSV field above its OPCODE field (30_encoding.md R90). -/
theorem rsvField_append_opcodeField (w : Word) : (rsvField w ++ opcodeField w : BitVec (24 + 8)) = w := by
  rw [rsvField, opcodeField, BitVec.extractLsb'_append_extractLsb'_eq_extractLsb' (by decide),
    BitVec.extractLsb'_eq_self]

/-- A word that decodes to a command is that command's word. -/
theorem eq_encode_of_decode_ok {w : Word} {i : Instr} (h : decode w = .ok i) : w = encode i := by
  unfold decode at h
  split at h
  · next hrsv => rw [encode, ← eq_opcode_of_decodeOpcode_ok h, ← hrsv, rsvField_append_opcodeField]
  · cases h

/-- A word that the decoder rejects is an illegal word (60_exceptions.md R277). -/
theorem illegalWord_of_decode_error {w : Word} {e : Illegal} (h : decode w = .error e) : IllegalWord w := by
  unfold decode at h
  split at h
  · exact .inr (not_mem_of_decodeOpcode_error h)
  · next hrsv => exact .inl hrsv

/-- No command's word is illegal. -/
theorem not_illegalWord_encode (i : Instr) : ¬IllegalWord (encode i) := by
  unfold IllegalWord
  cases i <;> decide

/-- The completion of an illegal word raises IllegalCommand (60_exceptions.md R277). -/
theorem completion_of_illegalWord {s : State} (h : IllegalWord s.pend) :
    completion s = .next (s.raiseError .illegalCommand) := by
  rcases completion_cases s with ⟨i, hi, -⟩ | ⟨e, -, hc⟩
  · rw [eq_encode_of_decode_ok hi] at h
    exact absurd h (not_illegalWord_encode i)
  · exact hc

/-- A generate ends without an error (60_exceptions.md R278). -/
theorem completedWith_generateAt (f : DWord) (s : State) : CompletedWith s.status.matched s (s.generateAt f) := by
  simp [CompletedWith]

/-- A verify ends without an error, whatever the match (60_exceptions.md R278). -/
theorem completedWith_verifyAt (c : DWord) (s : State) : CompletedWith (s.matchesAt c) s (s.verifyAt c) := by
  simp [CompletedWith]

/-- The meaning of every generate and verify is a completion without an error (60_exceptions.md R278). -/
theorem exec_generate_or_verify (s : State) {i : Instr} (h : IsGenerate i ∨ IsVerify i) :
    ∃ m t, exec i s = .next t ∧ CompletedWith m s t := by
  rcases h with (rfl | rfl | rfl) | (rfl | rfl | rfl)
  · exact ⟨_, _, rfl, completedWith_generateAt _ s⟩
  · exact ⟨_, _, rfl, completedWith_generateAt _ s⟩
  · exact ⟨_, _, rfl, completedWith_generateAt _ s⟩
  · exact ⟨_, _, rfl, completedWith_verifyAt _ s⟩
  · exact ⟨_, _, rfl, completedWith_verifyAt _ s⟩
  · exact ⟨_, _, rfl, completedWith_verifyAt _ s⟩

/-- The part of the table of 60_exceptions.md R271 that concerns one legal command: when its operand is the cause of
error code `c`. -/
def OperandCause (s : State) (c : Nat) : Instr → Prop
  | .setSecret => c = 5 ∧ s.params.maxKeyBytes < s.argLo.toNat
  | .setAlgorithm => c = 4 ∧ 2 < s.argLo.toNat
  | .setPasswordLength => c = 1 ∧ (s.argLo.toInt < 1 ∨ (s.params.maxDigits : Int) < s.argLo.toInt)
  | .setWindowSize => c = 2 ∧ s.argLo.toInt < 0
  | .setInterval => c = 3 ∧ s.argLo.toInt ≤ 0
  | .hotpGenerate | .hotpVerify | .totpGenerate | .totpVerify | .totpGenerateNow | .totpVerifyNow => False

/-- With a legal command in PEND the causes are those of its operand. -/
theorem errorCause_iff_operandCause {s : State} {i : Instr} (h : s.pend = encode i) (c : Nat) :
    ErrorCause s c ↔ OperandCause s c i := by
  simp only [ErrorCause, h, not_illegalWord_encode, and_false, or_false]
  cases i <;> simp [OperandCause, encode, Instr.opcode]

/-- With an illegal word in PEND the only cause is that of IllegalCommand. -/
theorem errorCause_iff_of_illegalWord {s : State} (h : IllegalWord s.pend) (c : Nat) : ErrorCause s c ↔ c = 6 := by
  have hlegal (i : Instr) (hp : s.pend = encode i) : c = 6 := absurd (hp ▸ h) (not_illegalWord_encode i)
  refine ⟨fun hc => ?_, fun hc => ?_⟩
  · rcases hc with ⟨-, hp, -⟩ | ⟨-, hp, -⟩ | ⟨-, hp, -⟩ | ⟨-, hp, -⟩ | ⟨-, hp, -⟩ | ⟨hc, -⟩
    · exact hlegal .setPasswordLength hp
    · exact hlegal .setWindowSize hp
    · exact hlegal .setInterval hp
    · exact hlegal .setAlgorithm hp
    · exact hlegal .setSecret hp
    · exact hc
  · simp [ErrorCause, hc, h]

/-- The outcome `o` reports on the state `s` as the causes `cause` of the error codes say: either it raises the error whose
code is the one that has a cause, or no code has a cause and it completes without an error. -/
def Reports (cause : Nat → Prop) (s : State) (o : Host.Outcome State Fault Refusal) : Prop :=
  (∃ e : ErrorKind, o = .next (s.raiseError e) ∧ ∀ c, cause c ↔ c = e.code.toNat) ∨
    ((∀ c, ¬cause c) ∧ ∃ m t, o = .next t ∧ CompletedWith m s t)

/-- A setter that raises the error `e` exactly when `bad` holds of its operand, and otherwise commits a state without
touching STATUS. -/
theorem reports_setter {o : Host.Outcome State Fault Refusal} {s : State} {e : ErrorKind} {bad : Prop}
    (hraise : bad → o = .next (s.raiseError e))
    (hcommit : ¬bad → ∃ c : State, o = .next c.finish ∧ c.status = s.status) :
    Reports (fun n => n = e.code.toNat ∧ bad) s o := by
  by_cases hbad : bad
  · exact .inl ⟨e, hraise hbad, fun n => and_iff_left hbad⟩
  · obtain ⟨c, hc, hstatus⟩ := hcommit hbad
    exact .inr ⟨fun n ⟨_, h⟩ => hbad h, _, _, hc, completedWith_finish hstatus⟩

/-- A generate or verify has no cause of an error and reports none. -/
theorem reports_generate_or_verify (s : State) {i : Instr} (h : IsGenerate i ∨ IsVerify i) :
    Reports (fun _ => False) s (exec i s) :=
  .inr ⟨fun _ => id, exec_generate_or_verify s h⟩

/-- Every command reports the cause that its operand gives (60_exceptions.md R271, R278). -/
theorem exec_reports (i : Instr) (s : State) : Reports (fun c => OperandCause s c i) s (exec i s) := by
  cases i with
  | setSecret =>
    exact reports_setter (e := .invalidSecretLength) exec_setSecret_of_lt
      fun h => ⟨_, exec_setSecret_of_le (Nat.not_lt.1 h), rfl⟩
  | setAlgorithm =>
    refine reports_setter (e := .unsupportedAlgorithm) exec_setAlgorithm_of_le fun h => ?_
    obtain ⟨a, ha⟩ := Alg.exists_code_eq (Nat.lt_succ_of_le (Nat.not_lt.1 h))
    exact ⟨_, exec_setAlgorithm_of_code_eq ha, rfl⟩
  | setPasswordLength =>
    exact reports_setter (e := .invalidPasswordLength) exec_setPasswordLength_of_lt
      fun h => ⟨_, exec_setPasswordLength_of_le (by omega) (by omega), rfl⟩
  | setWindowSize =>
    exact reports_setter (e := .invalidWindowSize) exec_setWindowSize_of_neg
      fun h => ⟨_, exec_setWindowSize_of_nonneg (Int.not_lt.1 h), rfl⟩
  | setInterval =>
    exact reports_setter (e := .invalidInterval) exec_setInterval_of_nonpos
      fun h => ⟨_, exec_setInterval_of_pos (Int.not_le.1 h), rfl⟩
  | hotpGenerate | totpGenerate | totpGenerateNow =>
    exact reports_generate_or_verify s (by simp [IsGenerate])
  | hotpVerify | totpVerify | totpVerifyNow =>
    exact reports_generate_or_verify s (by simp [IsVerify])

/-- Every completion reports the cause that the table of 60_exceptions.md R271 gives for the command in PEND. -/
theorem completion_reports (s : State) : Reports (ErrorCause s) s (completion s) := by
  rcases completion_cases s with ⟨i, hi, hc⟩ | ⟨e, he, hc⟩
  · have hcause : ErrorCause s = fun c => OperandCause s c i :=
      funext fun c => propext (errorCause_iff_operandCause (eq_encode_of_decode_ok hi) c)
    rw [hc, hcause]
    exact exec_reports i s
  · exact .inl ⟨.illegalCommand, hc, errorCause_iff_of_illegalWord (illegalWord_of_decode_error he)⟩

/-- A write that a BUSY block drops, at each offset of 60_exceptions.md R280. -/
theorem memWrite_busy_of_droppable {s : State} (hp : s.phase = .busy) {o : Nat}
    (h : o = 0x000 ∨ o = 0x008 ∨ o = 0x00C ∨ o = 0x024 ∨ (0x100 ≤ o ∧ o < 0x240)) (v : Word) (now : DWord) :
    s.memWrite o v now = s.drop := by
  have hwindow (b : Buffer) (hb : b ≠ .result) (ho : b.base ≤ o) (ho' : o < b.base + b.size) :
      s.memWrite o v now = s.drop := by
    rw [← Nat.add_sub_cancel' ho, memWrite_buf s hb (by omega), unlessBusy_busy hp]
  rcases h with rfl | rfl | rfl | rfl | ⟨hlo, hhi⟩
  · rw [memWrite_cmd, unlessBusy_busy hp]
  · rw [memWrite_argLo, unlessBusy_busy hp]
  · rw [memWrite_argHi, unlessBusy_busy hp]
  · rw [memWrite_candLen, unlessBusy_busy hp]
  · rcases Nat.lt_or_ge o 0x200 with hkey | hcand
    · exact hwindow .key (by decide) hlo hkey
    · exact hwindow .cand (by decide) hcand hhi

end Sys2Proof.Machine

namespace Sys2Proof

open Sys2Proof.Machine

/-- Settles O10: at each droppable offset the write answers the dropped state. -/
theorem busyWriteIsDropped : Obligations.BusyWriteIsDropped := by
  intro s o v now rest hw hp hi ho hdrop
  rw [step_write hw hi ho (by omega), memWrite_busy_of_droppable (by simpa using hp) hdrop]
  rfl

/-- Settles O32: a generate and a verify complete as `CompletedWith` says. -/
theorem generateAndVerifyRaiseNoError : Obligations.GenerateAndVerifyRaiseNoError := by
  intro s i h
  obtain ⟨m, t, ht, -, hdone, -, herr, hcode, -⟩ := exec_generate_or_verify s h
  exact ⟨t, ht, hdone, herr, hcode⟩

/-- Settles O18: the step is the completion, which raises IllegalCommand. -/
theorem illegalWordCompletesWithIllegalCommand : Obligations.IllegalWordCompletesWithIllegalCommand := by
  intro s rest hw hp hi hlast hill
  have hstep : step s = .next ((s.withInputs rest).raiseError .illegalCommand) := by
    rw [step_engine hw hi, engineMove_busy (by simpa using hp), completion_of_illegalWord (by simpa using hill)]
  obtain ⟨t, ht, hfail, hsame⟩ := exists_failed hstep
  refine ⟨t, ht, hfail, hsame, ?_⟩
  obtain ⟨-, -, -, -, -, -, hlastop⟩ := hfail
  obtain ⟨-, -, -, hword, -⟩ := statusWord_fields t
  rw [hword, hlastop, withInputs_status, hlast]

/-- Settles O35: from a state without ERR only raising an error sets ERR, and that writes STATUS and PHASE alone. -/
theorem failedCommandChangesOnlyStatus : Obligations.FailedCommandChangesOnlyStatus := by
  intro s t herr ht hterr
  rcases completion_reports s with ⟨e, he, hcause⟩ | ⟨-, m, u, hu, -, -, -, huerr, -⟩
  · obtain rfl : s.raiseError e = t := by simpa [he] using ht
    exact ⟨rfl, rfl, rfl, (hcause _).2 rfl, rfl, rfl⟩
  · obtain rfl : u = t := by simpa [hu] using ht
    simp [huerr, herr] at hterr

/-- Settles O36: a raised error's code is the one code that has a cause, and without a cause no error is raised. -/
theorem eachErrorCodeHasItsOneCause : Obligations.EachErrorCodeHasItsOneCause := by
  intro s herr hcode
  rcases completion_reports s with ⟨e, he, hcause⟩ | ⟨hnone, m, t, ht, -, -, -, hterr, htcode, -⟩
  · refine ⟨_, he, fun c => ?_, ?_⟩
    · simp [hcause, eq_comm]
    · simp
  · refine ⟨t, ht, fun c => ?_, fun _ => htcode.trans hcode⟩
    simp [hnone, hterr, herr]

end Sys2Proof
end

section
/-! SUPPORT. The reset input (spec/70_reset_and_hazards.md R300, R301): the step that takes it, and STATUS as it reads
after it. -/

namespace Sys2Proof.Machine

/-- The step that takes the reset input, in either PHASE. -/
theorem step_reset {s : State} {rest : List Input} (hw : s.params.wellFormed = true) (hi : s.inputs = .reset :: rest) :
    step s = .next ((State.resetWith s.params).withInputs rest) := by
  simp [step, hw, nextMove, hi, agentMove, resetBlock_eq]

/-- An idle block whose STATUS fields stand at their reset values reads STATUS as 0. -/
theorem statusWord_of_reset {s : State} (hst : s.status = Status.reset) (hp : s.phase = .idle) : s.statusWord = 0 := by
  rw [State.statusWord, hst, busy_idle s hp]
  rfl

end Sys2Proof.Machine

namespace Sys2Proof

open Sys2Proof.Machine

/-- Settles O1: the step answers the reset state of the same parameters, whose fields hold the values of R300. -/
theorem resetInputGivesTheResetValues : Obligations.ResetInputGivesTheResetValues := by
  intro s rest hw hi
  have hbuf : ∀ b i, ((State.resetWith s.params).withInputs rest).bufByte b i = 0 := bufByte_nil (by simp)
  have hstatus : ((State.resetWith s.params).withInputs rest).statusWord = 0 := statusWord_of_reset (by simp) (by simp)
  exact ⟨_, step_reset hw hi, by simp [hbuf, hstatus, Alg.code]⟩

end Sys2Proof
end

section
/-! SUPPORT. The decoder against the encoder (spec/30_encoding.md R90 to R93), and the command that a completion runs.
-/

namespace Sys2Proof.Machine

/-- Every command's word decodes to that command (R91). -/
@[simp] theorem decode_encode (i : Instr) : decode (encode i) = .ok i := by cases i <;> rfl

/-- The words that decode to a command are that command's word alone (R91). -/
theorem decode_eq_ok_iff {w : Word} {i : Instr} : decode w = .ok i ↔ w = encode i :=
  ⟨eq_encode_of_decode_ok, fun h => h ▸ decode_encode i⟩

/-- The decoder rejects the illegal words and no other (R92, R93). -/
theorem decode_rejects_iff {w : Word} : (∃ e, decode w = .error e) ↔ IllegalWord w := by
  refine ⟨fun ⟨_, he⟩ => illegalWord_of_decode_error he, fun h => ?_⟩
  cases hd : decode w with
  | error e => exact ⟨e, rfl⟩
  | ok i => exact absurd (eq_encode_of_decode_ok hd ▸ h) (not_illegalWord_encode i)

/-- The completion of a legal word is the meaning of its command (R99). -/
theorem completion_of_decode_ok {s : State} {i : Instr} (h : decode s.pend = .ok i) : completion s = exec i s := by
  rw [completion, h]

end Sys2Proof.Machine

namespace Sys2Proof

open Sys2Proof.Machine

/-- Settles O19: each command has one word, and a word without a command is illegal. -/
theorem decodeInvertsEncodeOnEveryWord : Obligations.DecodeInvertsEncodeOnEveryWord :=
  ⟨fun _ _ _ => decode_eq_ok_iff, fun _ => decode_rejects_iff⟩

/-- Settles O20: the eleven words are the encodings, the six others are decoded by evaluation. -/
theorem opcodeMapWordsDecode : Obligations.OpcodeMapWordsDecode := by
  refine ⟨decode_encode .setSecret, decode_encode .setAlgorithm, decode_encode .setPasswordLength,
    decode_encode .setWindowSize, decode_encode .setInterval, decode_encode .hotpGenerate, decode_encode .hotpVerify,
    decode_encode .totpGenerate, decode_encode .totpVerify, decode_encode .totpGenerateNow,
    decode_encode .totpVerifyNow, ?_⟩
  decide

/-- Settles O15: the engine's move is the completion, which runs the command that PEND decodes to. -/
theorem stepRunsTheDecodedCommand : Obligations.StepRunsTheDecodedCommand := by
  intro s i hw hp hi
  refine ⟨fun rest hin => ?_, fun hin => ?_⟩
  · rw [step_engine hw hin, engineMove_busy (by simpa using hp), completion_of_decode_ok (by simpa using hi)]
  · rw [step_nil hw hin, engineMove_busy hp, completion_of_decode_ok hi]

/-- Settles O16: the placed state waits with the word in PEND and the engine's move first. -/
theorem placedWordIsTheNextCommandRun : Obligations.PlacedWordIsTheNextCommandRun := by
  intro s i hw
  have hplaced : s.withFetchWord 32 (encode i).toNat =
      (s.accept (encode i) s.nowLatch).withInputs (.engine :: s.inputs) := by
    rw [State.withFetchWord, Nat.mod_eq_of_lt (encode i).isLt, BitVec.ofNat_toNat, BitVec.setWidth_eq]
  have hkept : ((s.accept (encode i) s.nowLatch).withInputs (.engine :: s.inputs)).withInputs s.inputs =
      s.accept (encode i) s.nowLatch := (rfl)
  rw [hplaced, step_engine (by simpa using hw) (withInputs_inputs _ _), hkept, engineMove_busy (accept_phase _ _ _),
    completion_of_decode_ok (s := s.accept (encode i) s.nowLatch) (decode_encode i)]

/-- Settles O17: while IDLE the engine's move answers the state it is given. -/
theorem engineTakesNoStepWhileIdle : Obligations.EngineTakesNoStepWhileIdle := by
  intro s hw hp
  refine ⟨fun hin => ?_, fun rest hin => ?_⟩
  · rw [step_nil hw hin, engineMove_idle hp]
  · rw [step_engine hw hin, engineMove_idle (by simpa using hp)]

/-- Settles O60: the reset state takes over the moves still to come, and its reply is that of reset. -/
theorem resetKeepsTheMovesStillToCome : Obligations.ResetKeepsTheMovesStillToCome :=
  fun _ _ hw hi => ⟨_, step_reset hw hi, withInputs_inputs _ _, withInputs_reply _ _⟩

/-- Settles O2: the buffers and STATUS read as 0, and every register has its reset value. -/
theorem firstStateHoldsTheResetValues : Obligations.FirstStateHoldsTheResetValues := by
  have hbuf : ∀ b i, State.reset.bufByte b i = 0 := bufByte_nil rfl
  have hstatus : State.reset.statusWord = 0 := statusWord_of_reset rfl rfl
  exact ⟨rfl, rfl, rfl, rfl, rfl, rfl, rfl, rfl, rfl, rfl, rfl, rfl, rfl, hbuf, hstatus, rfl, rfl, rfl⟩

end Sys2Proof
end

section
/-! SUPPORT. Host writes (spec/20_memory.md R60 to R68): which accesses the bus answers, which bytes are storage, and
what a write does at each offset. -/

namespace Sys2Proof.Machine

/-- An access at an address of the window is the access of the word at its offset, if the bus answers it (R62). -/
theorem eq_wordAccess {p : Params} {a : Access} (hlo : p.baseAddr ≤ a.addr) (hwidth : a.width = 4) :
    a = wordAccess p (a.addr - p.baseAddr) a.kind := by
  cases a
  simp_all [wordAccess]

/-- Every access of an aligned word in the window is answered (R62). -/
theorem exists_performAccess_word (s : State) {o : Nat} (k : AccessKind) (now : DWord) (h : o % 4 = 0)
    (h' : o < 0x1000) : ∃ t, performAccess (wordAccess s.params o k) now s = .next t := by
  rw [performAccess_word s k now h h']
  cases k
  · exact ⟨_, rfl⟩
  · exact ⟨_, rfl⟩

/-- An access in the window that is narrow or misaligned gets a bus error (R62, 60_exceptions.md R279). -/
theorem performAccess_busError {s : State} {a : Access} (now : DWord) (hlo : s.params.baseAddr ≤ a.addr)
    (hhi : a.addr < s.params.baseAddr + 0x1000) (h : ¬(a.width = 4 ∧ (a.addr - s.params.baseAddr) % 4 = 0)) :
    performAccess a now s = .fault .busError := by
  have hin : a.inWindow s.params = true := by simp [Access.inWindow, Config.windowBytes, hlo, hhi]
  have hal : ¬a.wordAligned s.params = true := by simpa [Access.wordAligned, Access.offset] using h
  rw [performAccess, if_pos hin, if_neg hal]

/-- In a buffer's window the storage is what lies below the capacity (R67). -/
theorem isStorage_buf {p : Params} (hw : p.wellFormed = true) (b : Buffer) {k : Nat} (hk : k < b.size) :
    IsStorage p (b.base + k) ↔ k < b.cap p := by
  obtain ⟨-, hd, -, hkey⟩ := wf_bounds hw
  cases b <;> simp only [Buffer.size, Buffer.base, Buffer.cap, IsStorage] at hk ⊢ <;> omega

/-- A legal capacity lies within the buffer's window. -/
theorem cap_le_size {p : Params} (hw : p.wellFormed = true) (b : Buffer) : b.cap p ≤ b.size := by
  obtain ⟨-, hd, -, hkey⟩ := wf_bounds hw
  cases b
  · exact hkey
  · exact hd
  · exact hd

/-- The windows of two buffers lie apart (R61). -/
theorem base_add_ne {b b' : Buffer} (hb : b ≠ b') {k k' : Nat} (hk : k < b.size) (hk' : k' < b'.size) :
    b.base + k ≠ b'.base + k' := by
  cases b <;> cases b'
  case key.key | cand.cand | result.result => exact absurd rfl hb
  all_goals
    simp only [Buffer.base, Buffer.size] at hk hk' ⊢
    omega

/-- An offset of the KEY or CAND windows, in the window of its buffer. -/
theorem exists_window {o : Nat} (hlo : 0x100 ≤ o) (hhi : o < 0x240) :
    ∃ b i, b ≠ Buffer.result ∧ i < b.size ∧ o = b.base + i := by
  rcases Nat.lt_or_ge o 0x200 with h | h
  · exact ⟨.key, o - 0x100, by decide, by simp only [Buffer.size]; omega, by simp only [Buffer.base]; omega⟩
  · exact ⟨.cand, o - 0x200, by decide, by simp only [Buffer.size]; omega, by simp only [Buffer.base]; omega⟩

/-- A word within the capacity of KEY or CAND, in its buffer. -/
theorem exists_buf_of_within {p : Params} {o : Nat}
    (h : (0x100 ≤ o ∧ o + 4 ≤ 0x100 + p.maxKeyBytes) ∨ (0x200 ≤ o ∧ o + 4 ≤ 0x200 + p.maxDigits)) :
    ∃ b i, b ≠ Buffer.result ∧ o = b.base + i ∧ i + 4 ≤ b.cap p := by
  rcases h with ⟨hlo, hhi⟩ | ⟨hlo, hhi⟩ <;> obtain ⟨i, rfl⟩ := Nat.exists_eq_add_of_le hlo
  · exact ⟨.key, i, by decide, rfl, by simp only [Buffer.cap]; omega⟩
  · exact ⟨.cand, i, by decide, rfl, by simp only [Buffer.cap]; omega⟩

/-- Every offset of a window is an offset of the block. -/
theorem base_add_lt {b : Buffer} {i : Nat} (h : i < b.size) : b.base + i < 0x1000 := by
  cases b <;> simp only [Buffer.base, Buffer.size] at h ⊢ <;> omega

/-- A window's write ends within the window. -/
theorem add_lt_size {b : Buffer} {i j : Nat} (hi : i < b.size) (ho : (b.base + i) % 4 = 0) (hj : j < 4) :
    i + j < b.size := by
  cases b <;> simp only [Buffer.base, Buffer.size] at hi ho ⊢ <;> omega

/-- A step whose next move is a host write into the KEY or CAND window while IDLE. -/
theorem step_windowWrite {s : State} {b : Buffer} {i : Nat} {v : Word} {now : DWord} {rest : List Input}
    (hw : s.params.wellFormed = true) (hp : s.phase = .idle)
    (hi : s.inputs = .access (wordAccess s.params (b.base + i) (.write v)) now :: rest) (ho : (b.base + i) % 4 = 0)
    (hb : b ≠ .result) (hsize : i < b.size) :
    step s = .next (((s.withInputs rest).setBufWord b i v).withReply .ack) := by
  rw [step_write hw hi ho (base_add_lt hsize), memWrite_buf _ hb hsize, unlessBusy_idle (by simpa using hp)]

/-- Reading a word back from where it was written, all four bytes within the capacity (R63, R65, R66). -/
theorem memRead_setBufWord {s : State} (hm : s.mem.wf) {b : Buffer} {i : Nat} (hsize : i < b.size)
    (hcap : i + 4 ≤ b.cap s.params) (v : Word) : (s.setBufWord b i v).memRead (b.base + i) = v := by
  rw [memRead_buf _ _ hsize]
  calc (wordOfBytes fun j => (s.setBufWord b i v).bufByte b (i + j))
      = wordOfBytes fun j => byteOfWord v j := wordOfBytes_congr fun j hj => by
        have hc : i + j < b.cap s.params := by omega
        rw [State.bufByte, setBufWord_params, if_pos hc, setBufWord_read_same b i v hm hj hc]
    _ = v := wordOfBytes_byteOfWord v

/-- The reply on the bus is no part of what a read answers. -/
theorem memRead_withReply (r : Reply) (s : State) (o : Nat) : (s.withReply r).memRead o = s.memRead o := (rfl)

/-- A write to a read-only register, given by any number equal to its offset. -/
theorem memWrite_of_eq_offset (s : State) {o : Nat} (r : Reg) (h : o = r.offset)
    (hr : r ≠ .cmd ∧ r ≠ .argLo ∧ r ≠ .argHi ∧ r ≠ .candLen) (v : Word) (now : DWord) : s.memWrite o v now = s := by
  obtain ⟨hcmd, hlo, hhi, hlen⟩ := hr
  rw [h, memWrite_readOnly s r hcmd hlo hhi hlen]

/-- What a write ignores: the read-only registers, the RESULT window and the unmapped offsets (R66). -/
theorem memWrite_ignored (s : State) {o : Nat} (ho : o % 4 = 0)
    (h : o = 0x004 ∨ (0x010 ≤ o ∧ o ≤ 0x020) ∨ (0x028 ≤ o ∧ o < 0x100) ∨ (0x240 ≤ o ∧ o < 0x1000)) (v : Word)
    (now : DWord) : s.memWrite o v now = s := by
  have hreg : o = 0x004 ∨ o = 0x010 ∨ o = 0x014 ∨ o = 0x018 ∨ o = 0x01C ∨ o = 0x020 ∨ o = 0x028 ∨ o = 0x02C ∨
      o = 0x030 ∨ o = 0x034 ∨ ((0x038 ≤ o ∧ o < 0x100) ∨ 0x280 ≤ o) ∨ (0x240 ≤ o ∧ o < 0x280) := by omega
  rcases hreg with h | h | h | h | h | h | h | h | h | h | h | ⟨hlo, hhi⟩
  · exact memWrite_of_eq_offset s .status h (by decide) v now
  · exact memWrite_of_eq_offset s .alg h (by decide) v now
  · exact memWrite_of_eq_offset s .digits h (by decide) v now
  · exact memWrite_of_eq_offset s .window h (by decide) v now
  · exact memWrite_of_eq_offset s .interval h (by decide) v now
  · exact memWrite_of_eq_offset s .keyLen h (by decide) v now
  · exact memWrite_of_eq_offset s .code h (by decide) v now
  · exact memWrite_of_eq_offset s .lastCtrLo h (by decide) v now
  · exact memWrite_of_eq_offset s .lastCtrHi h (by decide) v now
  · exact memWrite_of_eq_offset s .params h (by decide) v now
  · exact memWrite_unmapped s h v now
  · obtain ⟨i, rfl⟩ := Nat.exists_eq_add_of_le hlo
    exact memWrite_result s (by simp only [Buffer.size]; omega) v now

/-- A write that PHASE may drop, done twice, is that write done once, if the update it performs is idempotent and keeps
PHASE (R68). -/
theorem unlessBusy_twice {f : State → State} {s : State} (hphase : (f s).phase = s.phase) (hf : f (f s) = f s) :
    (s.unlessBusy (f s)).unlessBusy (f (s.unlessBusy (f s))) = s.unlessBusy (f s) := by
  cases hp : s.phase with
  | idle => rw [unlessBusy_idle hp, unlessBusy_idle (hphase.trans hp), hf]
  | busy => rw [unlessBusy_busy hp, unlessBusy_busy (by simpa using hp)]; rfl

/-- Only CMD's offset selects CMD, so any other write is done twice as it is done once (R68). -/
theorem memWrite_twice {s : State} (hm : s.mem.wf) {o : Nat} (ho : o ≠ 0x000) (v : Word) (now now' : DWord) :
    (s.memWrite o v now).memWrite o v now' = s.memWrite o v now := by
  unfold State.memWrite
  cases ht : Target.ofOffset o with
  | reg r =>
    cases r with
    | cmd => exact absurd (ofOffset_cmd ht) ho
    | argLo => exact unlessBusy_twice (f := fun s => { s with argLo := v }) rfl rfl
    | argHi => exact unlessBusy_twice (f := fun s => { s with argHi := v }) rfl rfl
    | candLen => exact unlessBusy_twice (f := fun s => { s with candLen := v }) rfl rfl
    | status | alg | digits | window | interval | keyLen | code | lastCtrLo | lastCtrHi | params => rfl
  | buf b i =>
    cases b with
    | key => exact unlessBusy_twice (setBufWord_phase .key i v s) (setBufWord_twice .key i v hm)
    | cand => exact unlessBusy_twice (setBufWord_phase .cand i v s) (setBufWord_twice .cand i v hm)
    | result => rfl
  | unmapped => rfl

end Sys2Proof.Machine

namespace Sys2Proof

open Sys2Proof.Machine

/-- Settles O5: an aligned word is answered, everything else in the window gets a bus error. -/
theorem accessFaultsExactlyWhenNarrowOrMisaligned : Obligations.AccessFaultsExactlyWhenNarrowOrMisaligned := by
  intro s a now rest hw hi hlo hhi
  have answered : a.width = 4 ∧ (a.addr - s.params.baseAddr) % 4 = 0 → ∃ t, step s = .next t := by
    rintro ⟨hwidth, hal⟩
    rw [step_access hw hi, eq_wordAccess hlo hwidth]
    exact exists_performAccess_word (s.withInputs rest) a.kind now hal (by omega)
  refine ⟨⟨fun hfault hgood => ?_, fun hbad => ?_⟩, answered⟩
  · obtain ⟨t, ht⟩ := answered hgood
    cases hfault.symm.trans ht
  · rw [step_access hw hi, performAccess_busError (s := s.withInputs rest) now hlo hhi hbad]

/-- Settles O7: the step is the word write into the buffer of the offset's window. -/
theorem idleWindowWriteStoresItsFourBytes : Obligations.IdleWindowWriteStoresItsFourBytes := by
  intro s o v now rest hw hm hp hi ho hlo hhi
  obtain ⟨b, i, hb, hsize, rfl⟩ := exists_window hlo hhi
  have storage {j : Nat} (hj : j < 4) : IsStorage s.params (b.base + i + j) ↔ i + j < b.cap s.params := by
    rw [Nat.add_assoc, isStorage_buf hw b (add_lt_size hsize ho hj)]
  refine ⟨_, step_windowWrite hw hp hi ho hb hsize, fun j hj hst => ?_, fun a ha => ?_, ?_⟩
  · rw [withReply_mem, Nat.add_assoc]
    exact setBufWord_read_same b i v (s := s.withInputs rest) hm hj ((storage hj).1 hst)
  · rw [withReply_mem, setBufWord_read_other, withInputs_mem]
    rintro j hj rfl hc
    exact ha ⟨by omega, by omega, by rw [← Nat.add_assoc]; exact (storage hj).2 hc⟩
  · simp [SameConfig, SameHostRegs, SameResultRegs, SameLatches, hp]

/-- Settles O9, register by register. -/
theorem idleRegisterWriteStoresTheWord : Obligations.IdleRegisterWriteStoresTheWord := by
  intro s o v now rest hw hp hi
  refine ⟨?_, ?_, ?_⟩ <;> rintro rfl <;> rw [step_write hw hi (by decide) (by decide)]
  · rw [memWrite_argLo, unlessBusy_idle (by simpa using hp)]; rfl
  · rw [memWrite_argHi, unlessBusy_idle (by simpa using hp)]; rfl
  · rw [memWrite_candLen, unlessBusy_idle (by simpa using hp)]; rfl

/-- Settles O11: the write leaves the state, and the step sets the reply. -/
theorem writeToReadOnlyOrUnmappedIsIgnored : Obligations.WriteToReadOnlyOrUnmappedIsIgnored := by
  intro s o v now rest hw hi ho h
  rw [step_write hw hi ho (by omega), memWrite_ignored _ ho h]

/-- Settles O12: the first step stores the word, the second reads it back. -/
theorem windowWriteThenReadReturnsTheWord : Obligations.WindowWriteThenReadReturnsTheWord := by
  intro s o v now now' rest hw hm hp hi ho h
  obtain ⟨b, i, hb, rfl, hcap⟩ := exists_buf_of_within h
  have hsize : i < b.size := lt_of_lt_of_le (by omega) (cap_le_size hw b)
  refine ⟨_, (run_next 1 (step_windowWrite hw hp hi ho hb hsize)).trans
    (run_next 0 (step_read (now := now') (rest := rest) (by simpa using hw) (by simp) ho (base_add_lt hsize))), ?_⟩
  rw [withReply_reply, memRead_withReply, memRead_setBufWord (by simpa using hm) hsize (by simpa using hcap)]

/-- Settles O13, by the target of the offset. -/
theorem repeatingAWriteLeavesTheSameState : Obligations.RepeatingAWriteLeavesTheSameState :=
  fun _ _ v now now' hm _ ho => memWrite_twice hm ho v now now'

end Sys2Proof
end

section
/-! SUPPORT. What a completion and a host access can leave, and the invariant of the block (spec/10_state.md sections 4
to 7 and 9, spec/20_memory.md R67): each part is kept by a completion, by a host access and by reset. -/

namespace Sys2Proof.Machine

/-- The states that a completion can leave: STATUS with an error, one committed register, or the results of a generate
or of a verify, each with the command that must stand in PEND (spec/30_encoding.md R91). -/
inductive CompletionLeaves (s : State) : State → Prop
  | failed (e : ErrorKind) : CompletionLeaves s (s.raiseError e)
  | keyLen (hp : s.pend = 0x01) (h : s.argLo.toNat ≤ s.params.maxKeyBytes) :
      CompletionLeaves s ({ s with keyLen := s.argLo }).finish
  | alg (hp : s.pend = 0x02) (a : Alg) : CompletionLeaves s ({ s with alg := a }).finish
  | digits (hp : s.pend = 0x03) (h : 1 ≤ s32 s.argLo) (h' : s32 s.argLo ≤ s.params.maxDigits) :
      CompletionLeaves s ({ s with digits := s.argLo }).finish
  | window (hp : s.pend = 0x04) (h : 0 ≤ s32 s.argLo) : CompletionLeaves s ({ s with window := s.argLo }).finish
  | interval (hp : s.pend = 0x05) (h : 1 ≤ s32 s.argLo) : CompletionLeaves s ({ s with interval := s.argLo }).finish
  | generated (hp : s.pend ∈ ([0x10, 0x20, 0x22] : List Word)) (f : DWord) : CompletionLeaves s (s.generateAt f)
  | verified (hp : s.pend ∈ ([0x11, 0x21, 0x23] : List Word)) (c : DWord) : CompletionLeaves s (s.verifyAt c)

/-- The words of the commands that generate. -/
theorem encode_mem_of_isGenerate {i : Instr} (h : IsGenerate i) : encode i ∈ ([0x10, 0x20, 0x22] : List Word) := by
  rcases h with rfl | rfl | rfl <;> decide

/-- The words of the commands that verify. -/
theorem encode_mem_of_isVerify {i : Instr} (h : IsVerify i) : encode i ∈ ([0x11, 0x21, 0x23] : List Word) := by
  rcases h with rfl | rfl | rfl <;> decide

/-- Whatever a completion answers is one of these states. -/
theorem completionLeaves_of_completion {s t : State} (h : completion s = .next t) : CompletionLeaves s t := by
  rcases completion_cases s with ⟨i, hi, hc⟩ | ⟨e, -, hc⟩
  · have hp := eq_encode_of_decode_ok hi
    obtain ⟨u, hu, hcase⟩ := exec_cases i s
    obtain rfl : u = t := by simpa [hc, hu] using h
    rcases hcase with ⟨e, rfl⟩ | ⟨rfl, hle, rfl⟩ | ⟨rfl, a, -, rfl⟩ | ⟨rfl, hlo, hhi, rfl⟩ | ⟨rfl, hlo, rfl⟩ |
      ⟨rfl, hlo, rfl⟩ | ⟨hg, f, rfl⟩ | ⟨hv, c, rfl⟩
    · exact .failed e
    · exact .keyLen hp hle
    · exact .alg hp a
    · exact .digits hp hlo hhi
    · exact .window hp hlo
    · exact .interval hp hlo
    · exact .generated (hp ▸ encode_mem_of_isGenerate hg) f
    · exact .verified (hp ▸ encode_mem_of_isVerify hv) c
  · obtain rfl : s.raiseError .illegalCommand = t := by simpa [hc] using h
    exact .failed _

/-- A completion that is no generate touches neither memory nor CODE. -/
theorem CompletionLeaves.same_mem_or_generated {s t : State} (hc : CompletionLeaves s t) :
    t.mem = s.mem ∧ t.code = s.code ∧ t.params = s.params ∨ ∃ f, t = s.generateAt f := by
  cases hc with
  | failed | keyLen | alg | digits | window | interval => exact .inl ⟨rfl, rfl, rfl⟩
  | generated _ f => exact .inr ⟨f, rfl⟩
  | verified _ c => exact .inl ⟨verifyAt_mem c s, verifyAt_code c s, verifyAt_params c s⟩

/-- A word written into one buffer leaves every byte of another buffer as it was (spec/20_memory.md R61, R67). -/
theorem setBufWord_bufByte_of_ne {b b' : Buffer} (hb : b' ≠ b) {s : State} (hw : s.params.wellFormed = true) (i : Nat)
    (v : Word) (k : Nat) : (s.setBufWord b i v).bufByte b' k = s.bufByte b' k := by
  by_cases hk : k < b'.cap s.params
  · have hread : (s.setBufWord b i v).mem.read (b'.base + k) = s.mem.read (b'.base + k) :=
      setBufWord_read_other b i v s fun j _ he hc => base_add_ne hb (lt_of_lt_of_le hk (cap_le_size hw b'))
        (lt_of_lt_of_le hc (cap_le_size hw b)) he
    rw [State.bufByte, State.bufByte, setBufWord_params, hread]
  · rw [bufByte_beyond (Nat.not_lt.1 hk), bufByte_beyond (by simpa using hk)]

/-- A word that is not negative as a two's-complement number is the same number unsigned. -/
theorem s32_nonneg {v : Word} (h : 0 ≤ s32 v) : v.toNat < 2 ^ 31 ∧ s32 v = (v.toNat : Int) := by
  have hv := v.isLt
  unfold s32 at h ⊢
  split at h
  · next hlt => exact ⟨hlt, if_pos hlt⟩
  · omega

end Sys2Proof.Machine

namespace Sys2Proof

open Sys2Proof.Machine

section
variable {s t : State}

theorem ConfigInv.congr (h : ConfigInv s) (hc : SameConfig s t) : ConfigInv t := by
  obtain ⟨hparams, -, hdigits, hwindow, hinterval, hkeyLen⟩ := hc
  rw [ConfigInv, hparams, hdigits, hwindow, hinterval, hkeyLen]
  exact h

theorem MemInv.congr (h : MemInv s) (hp : t.params = s.params) (hm : t.mem = s.mem) : MemInv t := by
  rw [MemInv, hp, hm]
  exact h

theorem ResultInv.congr (h : ResultInv s) (hc : t.code = s.code)
    (hr : ∀ k, t.bufByte .result k = s.bufByte .result k) : ResultInv t := by
  simpa only [ResultInv, hc, hr] using h

theorem StatusInv.congr (h : StatusInv s) (hst : t.status = s.status) (hph : t.phase = s.phase) (hp : t.pend = s.pend) :
    StatusInv t := by
  rw [StatusInv, hst, hph, hp]
  exact h

/-- Everything else than these fields is no part of the invariant. -/
theorem MachineInv.congr (h : MachineInv s) (hc : SameConfig s t) (hst : t.status = s.status) (hph : t.phase = s.phase)
    (hp : t.pend = s.pend) (hm : t.mem = s.mem) (hcode : t.code = s.code) : MachineInv t := by
  obtain ⟨hconfig, hstatus, hmem, hresult⟩ := h
  obtain ⟨hparams, -⟩ := id hc
  exact ⟨hconfig.congr hc, hstatus.congr hst hph hp, hmem.congr hparams hm,
    hresult.congr hcode fun k => by rw [State.bufByte, State.bufByte, hm, hparams]⟩

/-- A completion without an error keeps the STATUS invariants: a match is reported by a verify alone. -/
theorem StatusInv.completed (h : StatusInv s) (hbusy : s.phase = .busy) {m : Bool} (hc : CompletedWith m s t)
    (hp : t.pend = s.pend) (hm : m = true → s.status.lastop = 0x11 ∨ s.status.lastop = 0x21 ∨ s.status.lastop = 0x23) :
    StatusInv t := by
  obtain ⟨hclear, hcode, -, -, hlast⟩ := h
  obtain ⟨-, herr, -⟩ := hclear hbusy
  obtain ⟨hphase, -, hmatched, hterr, htcode, -, htlast⟩ := hc
  refine ⟨fun hb => ?_, fun _ => ?_, fun he => ?_, fun hm' => ?_, ?_⟩
  · cases hphase.symm.trans hb
  · rw [htcode, hcode herr]
  · cases he.symm.trans (hterr.trans herr)
  · rw [htlast]
    exact hm (hmatched.symm.trans hm')
  · rw [htlast, hp, hlast]

/-- Raising an error keeps the STATUS invariants. -/
theorem StatusInv.raiseError (h : StatusInv s) (e : ErrorKind) : StatusInv (s.raiseError e) := by
  obtain ⟨-, -, -, -, hlast⟩ := h
  simp [StatusInv, hlast]

/-- Acceptance sets STATUS to what the invariants ask of a BUSY block. -/
theorem StatusInv.accept (w : Word) (now : DWord) (s : State) : StatusInv (s.accept w now) := by
  simp [StatusInv, opcodeField]

/-- A dropped write is no part of the STATUS invariants. -/
theorem StatusInv.drop (h : StatusInv s) : StatusInv s.drop := by
  simpa [StatusInv] using h

/-- What a completion does to the configuration: nothing, or one setter's checked operand (44_configuration.md R240). -/
theorem ConfigInv.completionLeaves (h : ConfigInv s) (hc : CompletionLeaves s t) : ConfigInv t := by
  obtain ⟨hw, hd1, hd2, hwin, hi1, hi2, hkey⟩ := id h
  obtain ⟨-, hmax, -, -⟩ := wf_bounds hw
  cases hc with
  | failed e => exact h.congr (by simp [SameConfig])
  | keyLen _ hle => exact ⟨hw, hd1, hd2, hwin, hi1, hi2, hle⟩
  | alg _ a => exact ⟨hw, hd1, hd2, hwin, hi1, hi2, hkey⟩
  | digits _ hlo hhi =>
    obtain ⟨-, hs⟩ := s32_nonneg (by omega : 0 ≤ s32 s.argLo)
    rw [hs] at hlo hhi
    exact ⟨hw, Int.ofNat_le.1 hlo, Int.ofNat_le.1 hhi, hwin, hi1, hi2, hkey⟩
  | window _ hlo =>
    obtain ⟨hlt, -⟩ := s32_nonneg hlo
    exact ⟨hw, hd1, hd2, hlt, hi1, hi2, hkey⟩
  | interval _ hlo =>
    obtain ⟨hlt, hs⟩ := s32_nonneg (by omega : 0 ≤ s32 s.argLo)
    rw [hs] at hlo
    exact ⟨hw, hd1, hd2, hwin, Int.ofNat_le.1 hlo, hlt, hkey⟩
  | generated _ f => exact h.congr (by simp [SameConfig])
  | verified _ c => exact h.congr (by simp [SameConfig])

/-- A completion keeps the STATUS invariants. -/
theorem StatusInv.completionLeaves (h : StatusInv s) (hbusy : s.phase = .busy) (hc : CompletionLeaves s t) :
    StatusInv t := by
  obtain ⟨hclear, -, -, -, hlast⟩ := id h
  obtain ⟨-, -, hmatched⟩ := hclear hbusy
  have unmatched (hm : s.status.matched = true) :
      s.status.lastop = 0x11 ∨ s.status.lastop = 0x21 ∨ s.status.lastop = 0x23 := by cases hmatched.symm.trans hm
  cases hc with
  | failed e => exact h.raiseError e
  | keyLen | alg | digits | window | interval => exact h.completed hbusy (completedWith_finish rfl) rfl unmatched
  | generated _ f => exact h.completed hbusy (completedWith_generateAt f s) (generateAt_pend f s) unmatched
  | verified hp c =>
    refine h.completed hbusy (completedWith_verifyAt c s) (verifyAt_pend c s) fun _ => ?_
    simp only [List.mem_cons, List.not_mem_nil, or_false] at hp
    rcases hp with hp | hp | hp <;> simp [hlast, hp]

/-- A generate lists RESULT bytes alone beside what was listed. -/
theorem MemInv.generateAt (h : MemInv s) (f : DWord) : MemInv (s.generateAt f) := by
  obtain ⟨hwf, hst⟩ := h
  rw [MemInv, generateAt_mem, generateAt_params]
  refine ⟨setResult_wf _ _ hwf, fun c hc => ?_⟩
  rw [setResult_mem] at hc
  rcases mem_writeBytes hc with hc | hc
  · exact .inr (.inr (by simpa [Buffer.base] using hc))
  · exact hst c hc

/-- A generate leaves a code of 31 bits, and digits followed by 0x00 (R32, R33). -/
theorem resultInv_generateAt (hm : s.mem.wf) (hd : s.digits.toNat ≤ s.params.maxDigits) (f : DWord) :
    ResultInv (s.generateAt f) := by
  refine ⟨(generateAt_code_toNat f s).symm ▸ codeAt_lt f s, fun k => ?_⟩
  rw [generateAt_bufByte_result f hm hd]
  rcases Nat.lt_or_ge k s.digits.toNat with hk | hk
  · exact .inr (mem_render_bounds (by rw [List.getD_eq_getElem _ _ (by simpa using hk)]; exact List.getElem_mem _))
  · exact .inl (List.getD_eq_default _ _ (by simpa using hk))

/-- The engine's completion keeps the invariant. -/
theorem MachineInv.completion (h : MachineInv s) (hbusy : s.phase = .busy) (hc : Machine.completion s = .next t) :
    MachineInv t := by
  obtain ⟨hconfig, hstatus, hmem, hresult⟩ := h
  have hleaves := completionLeaves_of_completion hc
  refine ⟨hconfig.completionLeaves hleaves, hstatus.completionLeaves hbusy hleaves, ?_⟩
  rcases hleaves.same_mem_or_generated with ⟨htm, htc, htp⟩ | ⟨f, rfl⟩
  · exact ⟨hmem.congr htp htm, hresult.congr htc fun k => by rw [State.bufByte, State.bufByte, htm, htp]⟩
  · exact ⟨hmem.generateAt f, resultInv_generateAt hmem.1 hconfig.digits_le f⟩

/-- A word written into the KEY or CAND window keeps the invariant. -/
theorem MachineInv.setBufWord (h : MachineInv s) {b : Buffer} (hb : Buffer.result ≠ b) (i : Nat) (v : Word) :
    MachineInv (s.setBufWord b i v) := by
  obtain ⟨hconfig, hstatus, ⟨hwf, hst⟩, hresult⟩ := h
  obtain ⟨hw, -⟩ := id hconfig
  refine ⟨hconfig.congr (by simp [SameConfig]), hstatus.congr (by simp) (by simp) (by simp),
    ⟨setBufWord_wf b i v hwf, fun c hc => ?_⟩, hresult.congr (by simp) (setBufWord_bufByte_of_ne hb hw i v)⟩
  rw [setBufWord_params]
  rcases mem_setBufWord b i v s hc with ⟨hlo, hhi⟩ | hc
  · obtain ⟨k, hk⟩ := Nat.exists_eq_add_of_le hlo
    rw [hk] at hhi ⊢
    exact (isStorage_buf hw b (lt_of_lt_of_le (by omega) (cap_le_size hw b))).2 (by omega)
  · exact hst c hc

/-- A write on the bus keeps the invariant, in either PHASE. -/
theorem MachineInv.memWrite (h : MachineInv s) (o : Nat) (v : Word) (now : DWord) :
    MachineInv (s.memWrite o v now) := by
  obtain ⟨hconfig, hstatus, hmem, hresult⟩ := id h
  cases hp : s.phase with
  | idle =>
    rcases memWrite_idle hp o v now with he | ⟨-, he⟩ | he | he | he | ⟨i, he⟩ | ⟨i, he⟩ <;> rw [he]
    · exact h
    · exact ⟨hconfig.congr (by simp [SameConfig]), .accept v now s, hmem.congr rfl rfl, hresult.congr rfl fun _ => rfl⟩
    · exact h.congr (by simp [SameConfig]) rfl rfl rfl rfl rfl
    · exact h.congr (by simp [SameConfig]) rfl rfl rfl rfl rfl
    · exact h.congr (by simp [SameConfig]) rfl rfl rfl rfl rfl
    · exact h.setBufWord (by decide) i v
    · exact h.setBufWord (by decide) i v
  | busy =>
    rcases memWrite_busy hp o v now with he | he <;> rw [he]
    · exact h
    · exact ⟨hconfig.congr (by simp [SameConfig]), hstatus.drop, hmem.congr rfl rfl, hresult.congr rfl fun _ => rfl⟩

theorem MachineInv.withInputs (h : MachineInv s) (l : List Input) : MachineInv (s.withInputs l) :=
  h.congr (by simp [SameConfig]) rfl rfl rfl rfl rfl

theorem MachineInv.withReply (h : MachineInv s) (r : Reply) : MachineInv (s.withReply r) :=
  h.congr (by simp [SameConfig]) rfl rfl rfl rfl rfl

/-- A host access keeps the invariant. -/
theorem MachineInv.performAccess (h : MachineInv s) {a : Access} {now : DWord}
    (ha : Machine.performAccess a now s = .next t) : MachineInv t := by
  rcases performAccess_cases ha with ⟨-, rfl⟩ | ⟨v, -, rfl⟩
  · exact h.withReply _
  · exact (h.memWrite _ v now).withReply _

/-- The state after reset meets the invariant, for legal parameters. -/
theorem machineInv_resetWith {p : Params} (hw : p.wellFormed = true) : MachineInv (State.resetWith p) := by
  obtain ⟨hd, -, -, -⟩ := wf_bounds hw
  have hdigits : 6 ≤ p.maxDigits := by omega
  have hconfig : ConfigInv (State.resetWith p) := by simpa [ConfigInv, hw] using hdigits
  have hstatus : StatusInv (State.resetWith p) := by simp [StatusInv, Status.reset]
  exact ⟨hconfig, hstatus, ⟨resetWith_wf p, by simp⟩, by simp, fun k => .inl (bufByte_nil rfl _ _)⟩

end

/-- Settles O41: each agent's move keeps the invariant, and so does taking that move off the list. -/
theorem everyStepKeepsTheInvariant : Obligations.EveryStepKeepsTheInvariant := by
  intro s t h hstep
  obtain ⟨hw, s₀, hs, hmove⟩ := step_cases hstep
  have hphase : s₀.phase = s.phase := by rcases hs with ⟨-, rfl⟩ | ⟨m, rest, -, rfl⟩ <;> rfl
  have hparams : s₀.params = s.params := by rcases hs with ⟨-, rfl⟩ | ⟨m, rest, -, rfl⟩ <;> rfl
  have h₀ : MachineInv s₀ := by
    rcases hs with ⟨-, rfl⟩ | ⟨m, rest, -, rfl⟩
    · exact h
    · exact h.withInputs rest
  rcases hmove with ⟨hbusy, -, hc⟩ | ⟨-, -, rfl⟩ | ⟨a, now, rest, -, ha⟩ | ⟨rest, -, rfl⟩
  · exact h₀.completion (hphase.trans hbusy) hc
  · exact h₀
  · exact h₀.performAccess ha
  · rw [resetBlock_eq, hparams]
    exact (machineInv_resetWith hw).withInputs _

/-- Settles O42: the default parameters are legal. -/
theorem resetStateMeetsTheInvariant : Obligations.ResetStateMeetsTheInvariant := machineInv_resetWith (by decide)

end Sys2Proof
end

section
/-! SUPPORT. What a command's results depend on (spec/10_state.md R49), and that a verify accepts what its generate
produced (spec/42_window_verifier.md R187). -/

namespace Sys2Proof

open Sys2Proof.Machine

/-- What R49 says of the states `t` and `t'` that the command `i` leaves of `s` and `s'`: the same configuration, the
same results of a generate and of a verify, and from states without an error the same error. -/
def SameOutcome (i : Instr) (s s' t t' : State) : Prop :=
  SameConfig t t' ∧
    (IsGenerate i → t'.code = t.code ∧ t'.lastCtrLo = t.lastCtrLo ∧ t'.lastCtrHi = t.lastCtrHi ∧
      ∀ k, t'.bufByte .result k = t.bufByte .result k) ∧
    (IsVerify i → t'.status.matched = t.status.matched ∧ t'.lastCtrLo = t.lastCtrLo ∧ t'.lastCtrHi = t.lastCtrHi) ∧
    (s.status.err = false → s.status.errcode = 0 → s'.status.err = false → s'.status.errcode = 0 →
      t'.status.err = t.status.err ∧ t'.status.errcode = t.status.errcode)

/-- The command `i` is a setter: it raises `e` when `bad` holds of its operand, and otherwise commits
(44_configuration.md R240). -/
structure IsSetter (i : Instr) (e : ErrorKind) (bad : State → Prop) (commit : State → State) : Prop where
  raises : ∀ {x}, bad x → exec i x = .next (x.raiseError e)
  commits : ∀ {x}, ¬bad x → exec i x = .next (commit x).finish

theorem isSetter_setSecret : IsSetter .setSecret .invalidSecretLength (fun x => x.params.maxKeyBytes < x.argLo.toNat)
    fun x => { x with keyLen := x.argLo } :=
  ⟨exec_setSecret_of_lt, fun h => exec_setSecret_of_le (Nat.not_lt.1 h)⟩

theorem isSetter_setAlgorithm : IsSetter .setAlgorithm .unsupportedAlgorithm (fun x => 3 ≤ x.argLo.toNat)
    fun x => { x with alg := (Alg.ofCode x.argLo).getD x.alg } := by
  refine ⟨exec_setAlgorithm_of_le, fun {x} h => ?_⟩
  obtain ⟨a, ha⟩ := Alg.exists_code_eq (Nat.not_le.1 h)
  rw [exec_setAlgorithm_of_code_eq ha, ← ha, Alg.ofCode_code, Option.getD_some]

theorem isSetter_setPasswordLength : IsSetter .setPasswordLength .invalidPasswordLength
    (fun x => x.argLo.toInt < 1 ∨ (x.params.maxDigits : Int) < x.argLo.toInt) fun x => { x with digits := x.argLo } :=
  ⟨exec_setPasswordLength_of_lt, fun h => exec_setPasswordLength_of_le (by omega) (by omega)⟩

theorem isSetter_setWindowSize : IsSetter .setWindowSize .invalidWindowSize (fun x => x.argLo.toInt < 0)
    fun x => { x with window := x.argLo } :=
  ⟨exec_setWindowSize_of_neg, fun h => exec_setWindowSize_of_nonneg (Int.not_lt.1 h)⟩

theorem isSetter_setInterval : IsSetter .setInterval .invalidInterval (fun x => x.argLo.toInt ≤ 0)
    fun x => { x with interval := x.argLo } :=
  ⟨exec_setInterval_of_nonpos, fun h => exec_setInterval_of_pos (Int.not_le.1 h)⟩

/-- RESULT and every other buffer after a generate are those after writing the result alone. -/
theorem generateAt_bufByte (f : DWord) (s : State) (b : Buffer) (k : Nat) :
    (s.generateAt f).bufByte b k = (s.setResult (s.codeAt f) (render (s.codeAt f) s.digits.toNat)).bufByte b k := by
  simp only [State.bufByte, generateAt_mem, generateAt_params, setResult_params]

/-- Writing a result leaves the KEY and CAND bytes as they were (20_memory.md R61). -/
theorem setResult_bufByte_of_ne {b : Buffer} (hb : b ≠ .result) {s : State} (hw : s.params.wellFormed = true) (c : Nat)
    (r : List Byte) (k : Nat) : (s.setResult c r).bufByte b k = s.bufByte b k := by
  by_cases hk : k < b.cap s.params
  · have hread : (s.setResult c r).mem.read (b.base + k) = s.mem.read (b.base + k) := by
      refine setResult_read_other c r s fun ⟨hlo, hhi⟩ => ?_
      obtain ⟨k', hk'⟩ := Nat.exists_eq_add_of_le hlo
      have hcap : k' < Buffer.result.cap s.params := by simp only [Buffer.cap]; omega
      exact base_add_ne hb (lt_of_lt_of_le hk (cap_le_size hw b)) (lt_of_lt_of_le hcap (cap_le_size hw .result)) hk'
    rw [State.bufByte, State.bufByte, setResult_params, hread]
  · rw [bufByte_beyond (Nat.not_lt.1 hk), bufByte_beyond (by simpa using hk)]

section
variable {s s' : State}

/-- Equal operands are one 64-bit operand (30_encoding.md R94). -/
theorem SameInputs.arg64 (h : SameInputs s s') : s'.arg64 = s.arg64 := by
  obtain ⟨-, ⟨hlo, hhi, -⟩, -⟩ := h
  rw [State.arg64, State.arg64, hlo, hhi]

/-- States with the same inputs hold the same secret. -/
theorem SameInputs.secret (h : SameInputs s s') : s'.secret = s.secret := by
  obtain ⟨⟨-, -, -, -, -, hkeyLen⟩, -, -, hkey, -⟩ := h
  exact secret_congr hkeyLen hkey

/-- States with the same inputs have the same passwords. -/
theorem SameInputs.codeAt (h : SameInputs s s') (f : DWord) : s'.codeAt f = s.codeAt f := by
  obtain ⟨⟨-, halg, hdigits, -⟩, -⟩ := id h
  exact codeAt_congr halg h.secret hdigits f

/-- States with the same inputs hold the same candidate as far as a comparison looks: CAND bytes from CAND_LEN on are
compared only when the lengths differ, and then nothing matches. -/
theorem SameInputs.candidateIs_iff (h : SameInputs s s') (f : DWord) : CandidateIs s' f ↔ CandidateIs s f := by
  obtain ⟨⟨-, halg, hdigits, -⟩, ⟨-, -, hlen⟩, -, -, hcand⟩ := id h
  simp only [CandidateIs, halg, hdigits, hlen, h.secret]
  refine and_congr_right fun hl => forall₂_congr fun k hk => ?_
  rw [hcand k (hl ▸ hk)]

/-- States with the same inputs match around the same centres. -/
theorem SameInputs.matchesAt (h : SameInputs s s') (c : DWord) : s'.matchesAt c = s.matchesAt c := by
  obtain ⟨⟨-, -, -, hwindow, -⟩, -⟩ := id h
  rw [Bool.eq_iff_iff]
  simp only [matchesAt_eq_true_iff, InWindow, hwindow, h.candidateIs_iff]

/-- A setter whose check comes out the same in two states of the same configuration, and which commits the same. -/
theorem IsSetter.sameOutcome {i : Instr} {e : ErrorKind} {bad : State → Prop} {commit : State → State}
    (h : IsSetter i e bad commit) (hi : ¬IsGenerate i ∧ ¬IsVerify i) (hstatus : ∀ x, (commit x).status = x.status)
    (hbad : bad s' ↔ bad s) (hkept : SameConfig s s') (hset : SameConfig (commit s) (commit s')) :
    ∃ t t', exec i s = .next t ∧ exec i s' = .next t' ∧ SameOutcome i s s' t t' := by
  obtain ⟨hg, hv⟩ := hi
  by_cases hb : bad s
  · exact ⟨_, _, h.raises hb, h.raises (hbad.2 hb), hkept, fun h => absurd h hg, fun h => absurd h hv,
      fun _ _ _ _ => ⟨rfl, rfl⟩⟩
  · refine ⟨_, _, h.commits hb, h.commits (hbad.not.2 hb), hset, fun h => absurd h hg, fun h => absurd h hv,
      fun he hcode he' hcode' => ?_⟩
    simp [hstatus, he, hcode, he', hcode']

/-- A generate at one factor leaves both states with the same results. -/
theorem sameOutcome_generateAt {i : Instr} (hv : ¬IsVerify i) (hm : s.mem.wf) (hm' : s'.mem.wf) (h : SameInputs s s')
    (f : DWord) : SameOutcome i s s' (s.generateAt f) (s'.generateAt f) := by
  obtain ⟨⟨hparams, halg, hdigits, hwindow, hinterval, hkeyLen⟩, -⟩ := id h
  refine ⟨by simp [SameConfig, *], fun _ => ⟨by simp [h.codeAt], by simp, by simp, fun k => ?_⟩, fun h => absurd h hv,
    fun he hcode he' hcode' => by simp [he, hcode, he', hcode']⟩
  rw [generateAt_bufByte, generateAt_bufByte, setResult_bufByte _ _ hm, setResult_bufByte _ _ hm', hparams, hdigits,
    h.codeAt]

/-- A verify around one centre leaves both states with the same match. -/
theorem sameOutcome_verifyAt {i : Instr} (hg : ¬IsGenerate i) (h : SameInputs s s') (c : DWord) :
    SameOutcome i s s' (s.verifyAt c) (s'.verifyAt c) := by
  obtain ⟨⟨hparams, halg, hdigits, hwindow, hinterval, hkeyLen⟩, -⟩ := id h
  exact ⟨by simp [SameConfig, *], fun h => absurd h hg, fun _ => ⟨by simp [h.matchesAt], by simp, by simp⟩,
    fun he hcode he' hcode' => by simp [he, hcode, he', hcode']⟩

end

/-- The candidate that presents the password of the factor `f` is accepted around `f`, the centre of the window (R187).
-/
theorem matchesAt_self {s : State} {f : DWord} (h : CandidateIs s f) : s.matchesAt f = true :=
  matchesAt_eq_true_iff.2 ⟨f, ⟨0, by omega, by omega, by omega⟩, h⟩

/-- With the configuration and the secret of the generate, the candidate that RESULT held is accepted around the factor
of the generate (R187). -/
theorem matchesAt_of_generateAt {s u : State} {f : DWord} (hinv : ConfigInv s) (hm : s.mem.wf)
    (hconfig : SameConfig s u)
    (hkey : ∀ i < s.keyLen.toNat, u.bufByte .key i = s.bufByte .key i) (hlen : u.candLen = s.digits)
    (hcand : ∀ k < s.digits.toNat, u.bufByte .cand k = (s.generateAt f).bufByte .result k) : u.matchesAt f = true := by
  obtain ⟨-, halg, hdigits, -, -, hkeyLen⟩ := hconfig
  refine matchesAt_self ⟨by rw [hlen, hdigits], fun k hk => ?_⟩
  rw [hdigits] at hk
  rw [hcand k hk, generateAt_bufByte_result f hm hinv.digits_le, halg, secret_congr hkeyLen hkey, hdigits]
  rfl

/-- Settles O33: the setters check ARG_LO against the parameters alone, and a generate or a verify works at a factor
that both states share. -/
theorem resultsDependOnlyOnConfigurationOperandAndCandidate :
    Obligations.ResultsDependOnlyOnConfigurationOperandAndCandidate := by
  intro s s' i hm hm' h
  obtain ⟨hconfig, ⟨hlo, -, -⟩, hnow, -, -⟩ := id h
  obtain ⟨hparams, halg, hdigits, hwindow, hinterval, hkeyLen⟩ := id hconfig
  cases i with
  | setSecret =>
    exact isSetter_setSecret.sameOutcome (by simp [IsGenerate, IsVerify]) (fun _ => rfl) (by rw [hparams, hlo]) hconfig
      ⟨hparams, halg, hdigits, hwindow, hinterval, hlo⟩
  | setAlgorithm =>
    exact isSetter_setAlgorithm.sameOutcome (by simp [IsGenerate, IsVerify]) (fun _ => rfl) (by rw [hlo]) hconfig
      ⟨hparams, by rw [hlo, halg], hdigits, hwindow, hinterval, hkeyLen⟩
  | setPasswordLength =>
    exact isSetter_setPasswordLength.sameOutcome (by simp [IsGenerate, IsVerify]) (fun _ => rfl) (by rw [hparams, hlo])
      hconfig ⟨hparams, halg, hlo, hwindow, hinterval, hkeyLen⟩
  | setWindowSize =>
    exact isSetter_setWindowSize.sameOutcome (by simp [IsGenerate, IsVerify]) (fun _ => rfl) (by rw [hlo]) hconfig
      ⟨hparams, halg, hdigits, hlo, hinterval, hkeyLen⟩
  | setInterval =>
    exact isSetter_setInterval.sameOutcome (by simp [IsGenerate, IsVerify]) (fun _ => rfl) (by rw [hlo]) hconfig
      ⟨hparams, halg, hdigits, hwindow, hlo, hkeyLen⟩
  | hotpGenerate =>
    exact ⟨_, _, rfl, by rw [exec, execHotpGenerate, h.arg64],
      sameOutcome_generateAt (by simp [IsVerify]) hm hm' h _⟩
  | totpGenerate =>
    exact ⟨_, _, rfl, by rw [exec, execTotpGenerate, h.arg64, hinterval],
      sameOutcome_generateAt (by simp [IsVerify]) hm hm' h _⟩
  | totpGenerateNow =>
    exact ⟨_, _, rfl, by rw [exec, execTotpGenerateNow, hnow, hinterval],
      sameOutcome_generateAt (by simp [IsVerify]) hm hm' h _⟩
  | hotpVerify =>
    exact ⟨_, _, rfl, by rw [exec, execHotpVerify, h.arg64], sameOutcome_verifyAt (by simp [IsGenerate]) h _⟩
  | totpVerify =>
    exact ⟨_, _, rfl, by rw [exec, execTotpVerify, h.arg64, hinterval],
      sameOutcome_verifyAt (by simp [IsGenerate]) h _⟩
  | totpVerifyNow =>
    exact ⟨_, _, rfl, by rw [exec, execTotpVerifyNow, hnow, hinterval],
      sameOutcome_verifyAt (by simp [IsGenerate]) h _⟩

/-- Settles O34: RESULT holds the password of the factor that is the centre of the verify's window. -/
theorem verifyAcceptsWhatGenerateProduced : Obligations.VerifyAcceptsWhatGenerateProduced := by
  intro s t u g v hgv hinv hm hg hconfig hkey hlo hhi hnow hlen hcand
  have accepted (f : DWord) (hgen : exec g s = .next (s.generateAt f))
      (hver : u.interval = s.interval → exec v u = .next (u.verifyAt f)) :
      ∃ z, exec v u = .next z ∧ z.status.matched = true := by
    obtain rfl := Host.Outcome.next.inj (hgen.symm.trans hg)
    have hconfig' : SameConfig s u := by simpa [SameConfig] using hconfig
    obtain ⟨-, -, -, -, hinterval, -⟩ := id hconfig'
    refine ⟨_, hver hinterval, ?_⟩
    rw [verifyAt_status, completed_matched, withMatch_matched]
    refine matchesAt_of_generateAt hinv hm hconfig' (fun i hi => ?_) hlen hcand
    rw [hkey i hi, generateAt_bufByte, setResult_bufByte_of_ne (by decide) hinv.1]
  have harg : u.arg64 = s.arg64 := by rw [State.arg64, State.arg64, hlo, hhi]
  simp only [List.mem_cons, Prod.mk.injEq, List.not_mem_nil, or_false] at hgv
  rcases hgv with ⟨rfl, rfl⟩ | ⟨rfl, rfl⟩ | ⟨rfl, rfl⟩
  · exact accepted _ rfl fun _ => by rw [exec, execHotpVerify, harg]
  · exact accepted _ rfl fun hinterval => by rw [exec, execTotpVerify, harg, hinterval]
  · exact accepted _ rfl fun hinterval => by rw [exec, execTotpVerifyNow, hnow, hinterval]

end Sys2Proof
end

section
/-! SUPPORT. Who writes what (spec/10_state.md sections 4 to 9): between resets, what a completion changes, what a host
access changes in either PHASE, and that nothing else changes anything. -/

namespace Sys2Proof

open Sys2Proof.Machine

/-- What the engine alone writes: each configuration register at the completion of its own setter, CODE and RESULT at
that of a generate, LAST_CTR at that of a generate or a verify. -/
structure EngineOwned (s t : State) : Prop where
  keyLen : t.keyLen ≠ s.keyLen → Completes s ∧ s.pend = 0x00000001
  alg : t.alg ≠ s.alg → Completes s ∧ s.pend = 0x00000002
  digits : t.digits ≠ s.digits → Completes s ∧ s.pend = 0x00000003
  window : t.window ≠ s.window → Completes s ∧ s.pend = 0x00000004
  interval : t.interval ≠ s.interval → Completes s ∧ s.pend = 0x00000005
  result : t.code ≠ s.code ∨ (∃ k, t.bufByte .result k ≠ s.bufByte .result k) →
    Completes s ∧ s.pend ∈ ([0x10, 0x20, 0x22] : List Word)
  lastCtr : t.lastCtrLo ≠ s.lastCtrLo ∨ t.lastCtrHi ≠ s.lastCtrHi →
    Completes s ∧ s.pend ∈ ([0x10, 0x11, 0x20, 0x21, 0x22, 0x23] : List Word)

/-- What the host alone writes: its registers and buffers while IDLE, and the latches at an acceptance. -/
structure HostOwned (s t : State) : Prop where
  operands : t.argLo ≠ s.argLo ∨ t.argHi ≠ s.argHi ∨ t.candLen ≠ s.candLen ∨
      (∃ k, k < s.params.maxKeyBytes ∧ t.mem.read (0x100 + k) ≠ s.mem.read (0x100 + k)) ∨
      (∃ k, k < s.params.maxDigits ∧ t.mem.read (0x200 + k) ≠ s.mem.read (0x200 + k)) →
    s.phase = .idle ∧ ∃ o v, HostWrites o v s
  pend : t.pend ≠ s.pend → Accepts t.pend s
  nowLatch : t.nowLatch ≠ s.nowLatch → Accepts 0x00000022 s ∨ Accepts 0x00000023 s

/-- What both write: PHASE and STATUS. -/
structure SharedOwned (s t : State) : Prop where
  phase : t.phase ≠ s.phase → (∃ w, Accepts w s) ∨ Completes s
  status : t.status ≠ s.status → (∃ w, Accepts w s) ∨ Completes s ∨
    s.phase = .busy ∧ (∃ o v, HostWrites o v s) ∧ t.status = { s.status with dropped := true }

/-- The KEY and CAND bytes are unchanged. -/
def SameHostBuffers (s t : State) : Prop :=
  (∀ k < s.params.maxKeyBytes, t.mem.read (0x100 + k) = s.mem.read (0x100 + k)) ∧
    ∀ k < s.params.maxDigits, t.mem.read (0x200 + k) = s.mem.read (0x200 + k)

/-- The words that write LAST_CTR: those of a generate and those of a verify (10_state.md R34). -/
theorem generateWords_subset : ([0x10, 0x20, 0x22] : List Word) ⊆ [0x10, 0x11, 0x20, 0x21, 0x22, 0x23] := by decide

theorem verifyWords_subset : ([0x11, 0x21, 0x23] : List Word) ⊆ [0x10, 0x11, 0x20, 0x21, 0x22, 0x23] := by decide

section
variable {s t : State}

theorem EngineOwned.of_same (hconfig : SameConfig s t) (hregs : SameResultRegs s t)
    (hresult : ∀ k, t.bufByte .result k = s.bufByte .result k) : EngineOwned s t := by
  obtain ⟨-, halg, hdigits, hwindow, hinterval, hkeyLen⟩ := hconfig
  obtain ⟨hcode, hlo, hhi⟩ := hregs
  constructor <;> simp [*]

theorem HostOwned.of_same (hregs : SameHostRegs s t) (hbufs : SameHostBuffers s t) (hlatches : SameLatches s t) :
    HostOwned s t := by
  obtain ⟨hlo, hhi, hlen⟩ := hregs
  obtain ⟨hkey, hcand⟩ := hbufs
  obtain ⟨hpend, hnow⟩ := hlatches
  refine ⟨fun h => ?_, fun h => absurd hpend h, fun h => absurd hnow h⟩
  rcases h with h | h | h | ⟨k, hk, h⟩ | ⟨k, hk, h⟩
  · exact absurd hlo h
  · exact absurd hhi h
  · exact absurd hlen h
  · exact absurd (hkey k hk) h
  · exact absurd (hcand k hk) h

theorem SharedOwned.of_same (hphase : t.phase = s.phase) (hstatus : t.status = s.status) : SharedOwned s t :=
  ⟨fun h => absurd hphase h, fun h => absurd hstatus h⟩

/-- A move that changes nothing of the block breaks no ownership. -/
theorem owned_of_unchanged (s : State) (l : List Input) (r : Reply) :
    EngineOwned s ((s.withInputs l).withReply r) ∧ HostOwned s ((s.withInputs l).withReply r) ∧
      SharedOwned s ((s.withInputs l).withReply r) :=
  ⟨.of_same (by simp [SameConfig]) (by simp [SameResultRegs]) fun _ => rfl,
    .of_same (by simp [SameHostRegs]) (by simp [SameHostBuffers]) (by simp [SameLatches]), .of_same rfl rfl⟩

/-- A completion changes what its command owns. -/
theorem EngineOwned.of_completion (hc : Completes s) {l : List Input} (h : CompletionLeaves (s.withInputs l) t) :
    EngineOwned s t := by
  cases h with
  | failed e => exact .of_same (by simp [SameConfig]) (by simp [SameResultRegs]) fun _ => rfl
  | keyLen hp | alg hp | digits hp | window hp | interval hp =>
    replace hp : s.pend = _ := hp
    constructor <;> simp [State.bufByte, hc, hp]
  | generated hp f =>
    constructor
    case result => exact fun _ => ⟨hc, hp⟩
    case lastCtr => exact fun _ => ⟨hc, generateWords_subset hp⟩
    all_goals simp
  | verified hp c =>
    constructor
    case lastCtr => exact fun _ => ⟨hc, verifyWords_subset hp⟩
    all_goals simp [State.bufByte]

/-- A completion writes nothing of the host's: of memory it changes RESULT alone. -/
theorem completionLeaves_host (hw : s.params.wellFormed = true) (h : CompletionLeaves s t) :
    SameHostRegs s t ∧ SameHostBuffers s t ∧ SameLatches s t := by
  obtain ⟨-, hdigits, -, hkeyBytes⟩ := wf_bounds hw
  cases h with
  | failed | keyLen | alg | digits | window | interval =>
    exact ⟨⟨rfl, rfl, rfl⟩, ⟨fun _ _ => rfl, fun _ _ => rfl⟩, rfl, rfl⟩
  | generated _ f =>
    refine ⟨by simp [SameHostRegs], ⟨fun k hk => ?_, fun k hk => ?_⟩, by simp [SameLatches]⟩
    · rw [generateAt_mem, setResult_read_other]
      exact fun ⟨hlo, _⟩ => absurd hlo (by simp only [Buffer.base]; omega)
    · rw [generateAt_mem, setResult_read_other]
      exact fun ⟨hlo, _⟩ => absurd hlo (by simp only [Buffer.base]; omega)
  | verified _ c => exact ⟨by simp [SameHostRegs], by simp [SameHostBuffers], by simp [SameLatches]⟩

/-- A host write of the machine, with the offset and the word that it writes. -/
theorem hostWrites_of_performAccess {a : Access} {now : DWord} {rest : List Input} {v : Word}
    (hi : s.inputs = .access a now :: rest) (h : performAccess a now (s.withInputs rest) = .next t)
    (hk : a.kind = .write v) : HostWrites (a.offset s.params) v s := by
  unfold performAccess at h
  split at h
  · next hin =>
    simp only [Access.inWindow, withInputs_params, Bool.and_eq_true, decide_eq_true_eq] at hin
    exact ⟨a, now, rest, hi, by rw [Access.offset]; omega, hk⟩
  · cases h

/-- A host write touches nothing of the engine's, in either PHASE. -/
theorem memWrite_engine (hw : s.params.wellFormed = true) (o : Nat) (v : Word) (now : DWord) :
    SameConfig s (s.memWrite o v now) ∧ SameResultRegs s (s.memWrite o v now) ∧
      ∀ k, (s.memWrite o v now).bufByte .result k = s.bufByte .result k := by
  cases hp : s.phase with
  | idle =>
    rcases memWrite_idle hp o v now with he | ⟨-, he⟩ | he | he | he | ⟨i, he⟩ | ⟨i, he⟩ <;> rw [he]
    case inr.inr.inr.inr.inr.inl | inr.inr.inr.inr.inr.inr =>
      exact ⟨by simp [SameConfig], by simp [SameResultRegs], setBufWord_bufByte_of_ne (by decide) hw i v⟩
    all_goals exact ⟨⟨rfl, rfl, rfl, rfl, rfl, rfl⟩, ⟨rfl, rfl, rfl⟩, fun _ => rfl⟩
  | busy =>
    rcases memWrite_busy hp o v now with he | he <;> rw [he] <;>
      exact ⟨⟨rfl, rfl, rfl, rfl, rfl, rfl⟩, ⟨rfl, rfl, rfl⟩, fun _ => rfl⟩

/-- A host write while IDLE that is no acceptance touches neither the latches nor PHASE nor STATUS. -/
theorem memWrite_idle_latches (hp : s.phase = .idle) (o : Nat) (v : Word) (now : DWord) :
    (o = 0 ∧ s.memWrite o v now = s.accept v now) ∨
      (SameLatches s (s.memWrite o v now) ∧ (s.memWrite o v now).phase = s.phase ∧
        (s.memWrite o v now).status = s.status) := by
  rcases memWrite_idle hp o v now with he | he | he | he | he | ⟨i, he⟩ | ⟨i, he⟩
  case inr.inl => exact .inl he
  all_goals exact .inr (by simp [he, SameLatches])

/-- A host access changes what the host owns, and STATUS by a dropped write. -/
theorem owned_of_access (hw : s.params.wellFormed = true) {a : Access} {now : DWord} {rest : List Input}
    (hi : s.inputs = .access a now :: rest) (h : performAccess a now (s.withInputs rest) = .next t) :
    EngineOwned s t ∧ HostOwned s t ∧ SharedOwned s t := by
  rcases performAccess_cases h with ⟨-, rfl⟩ | ⟨v, hk, rfl⟩
  · exact owned_of_unchanged s rest _
  have hwrites := hostWrites_of_performAccess hi h hk
  obtain ⟨hconfig, hregs, hresult⟩ := memWrite_engine (s := s.withInputs rest) hw (a.offset s.params) v now
  refine ⟨.of_same hconfig hregs hresult, ?_⟩
  cases hp : s.phase with
  | idle =>
    rcases memWrite_idle_latches (s := s.withInputs rest) hp (a.offset s.params) v now with
      ⟨ho, he⟩ | ⟨⟨hpend, hnow⟩, hphase, hstatus⟩
    · have haccepts : Accepts v s := ⟨hp, ho ▸ hwrites⟩
      rw [withInputs_params, he]
      refine ⟨⟨fun _ => ⟨hp, _, _, hwrites⟩, fun _ => haccepts, fun hnow => ?_⟩,
        ⟨fun _ => .inl ⟨v, haccepts⟩, fun _ => .inl ⟨v, haccepts⟩⟩⟩
      rw [withReply_nowLatch, accept_nowLatch] at hnow
      split at hnow
      · next hv =>
        rcases hv with rfl | rfl
        · exact .inl haccepts
        · exact .inr haccepts
      · exact absurd rfl hnow
    · exact ⟨⟨fun _ => ⟨hp, _, _, hwrites⟩, fun hne => absurd hpend hne, fun hne => absurd hnow hne⟩,
        .of_same hphase hstatus⟩
  | busy =>
    rcases memWrite_busy (s := s.withInputs rest) hp (a.offset s.params) v now with he | he <;>
      rw [withInputs_params, he]
    · exact ⟨.of_same ⟨rfl, rfl, rfl⟩ ⟨fun _ _ => rfl, fun _ _ => rfl⟩ ⟨rfl, rfl⟩, .of_same rfl rfl⟩
    · exact ⟨.of_same ⟨rfl, rfl, rfl⟩ ⟨fun _ _ => rfl, fun _ _ => rfl⟩ ⟨rfl, rfl⟩,
        ⟨fun hne => absurd rfl hne, fun _ => .inr (.inr ⟨hp, ⟨_, _, hwrites⟩, rfl⟩)⟩⟩

/-- A completion changes what the engine owns, and PHASE and STATUS. -/
theorem owned_of_completion (hw : s.params.wellFormed = true) (hc : Completes s) {l : List Input}
    (h : completion (s.withInputs l) = .next t) : EngineOwned s t ∧ HostOwned s t ∧ SharedOwned s t := by
  have hleaves := completionLeaves_of_completion h
  obtain ⟨hregs, hbufs, hlatches⟩ := completionLeaves_host (s := s.withInputs l) hw hleaves
  exact ⟨.of_completion hc hleaves, .of_same hregs hbufs hlatches, fun _ => .inr hc, fun _ => .inr (.inl hc)⟩

/-- Between resets every field is changed by its owner alone. -/
theorem owned_of_step (h : step s = .next t) (hreset : ∀ rest, s.inputs ≠ .reset :: rest) :
    EngineOwned s t ∧ HostOwned s t ∧ SharedOwned s t := by
  obtain ⟨hw, s₀, hs, hmove⟩ := step_cases h
  have hs₀ : ∃ l, s₀ = s.withInputs l := by
    rcases hs with ⟨-, rfl⟩ | ⟨m, rest, -, rfl⟩
    · exact ⟨s₀.inputs, rfl⟩
    · exact ⟨rest, rfl⟩
  obtain ⟨l, rfl⟩ := hs₀
  rcases hmove with ⟨hbusy, hin, hc⟩ | ⟨-, -, rfl⟩ | ⟨a, now, rest, hin, ha⟩ | ⟨rest, hin, -⟩
  · exact owned_of_completion hw ⟨hbusy, hin⟩ hc
  · exact owned_of_unchanged s l s.reply
  · exact owned_of_access hw (rest := rest) hin (step_access hw hin ▸ h)
  · exact absurd hin (hreset rest)

end

/-- Settles O37: the owners' fields, put together. -/
theorem eachRegisterIsWrittenOnlyByItsOwner : Obligations.EachRegisterIsWrittenOnlyByItsOwner := by
  intro s t h hreset
  obtain ⟨hengine, hhost, hshared⟩ := owned_of_step h hreset
  exact ⟨hengine.keyLen, hengine.alg, hengine.digits, hengine.window, hengine.interval, hengine.result, hengine.lastCtr,
    hhost.operands, hhost.pend, hhost.nowLatch, hshared.phase, hshared.status⟩

end Sys2Proof
end

section
/-! SUPPORT. Host accesses around a completion (spec/20_memory.md R66 to R71, spec/70_reset_and_hazards.md R307 to
R310): while BUSY they change DROPPED and the bus alone, and a completion neither reads nor writes those. -/

namespace Sys2Proof.Machine

/-- The state with other moves still to come, another bus reply and another DROPPED: all that host accesses while BUSY
change. -/
def State.withBus (l : List Input) (r : Reply) (d : Bool) (s : State) : State :=
  { s with inputs := l, reply := r, status := { s.status with dropped := d } }

/-- A state is itself with the bus it has. -/
theorem withInputs_eq_withBus (l : List Input) (s : State) :
    s.withInputs l = s.withBus l s.reply s.status.dropped := (rfl)

section
variable (l : List Input) (r : Reply) (d : Bool)

@[simp] theorem withBus_params (s : State) : (s.withBus l r d).params = s.params := (rfl)
@[simp] theorem withBus_digits (s : State) : (s.withBus l r d).digits = s.digits := (rfl)
@[simp] theorem withBus_phase (s : State) : (s.withBus l r d).phase = s.phase := (rfl)
@[simp] theorem withBus_pend (s : State) : (s.withBus l r d).pend = s.pend := (rfl)
@[simp] theorem withBus_inputs (s : State) : (s.withBus l r d).inputs = l := (rfl)

/-- No code depends on the bus. -/
theorem codeAt_withBus (f : DWord) (s : State) : (s.withBus l r d).codeAt f = s.codeAt f :=
  codeAt_congr (rfl) (secret_congr (rfl) fun _ _ => (rfl)) (rfl) f

/-- No match depends on the bus. -/
theorem matchesAt_withBus (c : DWord) (s : State) : (s.withBus l r d).matchesAt c = s.matchesAt c :=
  matchesAt_congr (rfl) (secret_congr (rfl) fun _ _ => (rfl)) (rfl) (rfl) (rfl) c

theorem raiseError_withBus (e : ErrorKind) (s : State) :
    (s.withBus l r d).raiseError e = (s.raiseError e).withBus l r d := (rfl)

/-- Writing the results of a generate and ending the completion leaves the bus alone. -/
theorem finish_setLastCtr_setResult_withBus (c : Nat) (p : List Byte) (f : DWord) (s : State) :
    (((s.withBus l r d).setResult c p).setLastCtr f).finish = (((s.setResult c p).setLastCtr f).finish).withBus l r d :=
  (rfl)

/-- Writing the results of a verify and ending the completion leaves the bus alone. -/
theorem finish_setLastCtr_setMatch_withBus (m : Bool) (f : DWord) (s : State) :
    (((s.withBus l r d).setMatch m).setLastCtr f).finish = (((s.setMatch m).setLastCtr f).finish).withBus l r d := (rfl)

theorem generateAt_withBus (f : DWord) (s : State) :
    (s.withBus l r d).generateAt f = (s.generateAt f).withBus l r d := by
  rw [State.generateAt, codeAt_withBus, withBus_digits, finish_setLastCtr_setResult_withBus, State.generateAt]

theorem verifyAt_withBus (c : DWord) (s : State) :
    (s.withBus l r d).verifyAt c = (s.verifyAt c).withBus l r d := by
  rw [State.verifyAt, matchesAt_withBus, finish_setLastCtr_setMatch_withBus, State.verifyAt]

/-- A setter neither reads nor writes the bus, if its check and its commit do not. -/
theorem exec_setter_withBus {i : Instr} {e : ErrorKind} {bad : State → Prop} {commit : State → State} {s : State}
    (h : IsSetter i e bad commit) (hbad : bad (s.withBus l r d) ↔ bad s)
    (hcommit : (commit (s.withBus l r d)).finish = (commit s).finish.withBus l r d) :
    ∃ u, exec i s = .next u ∧ exec i (s.withBus l r d) = .next (u.withBus l r d) := by
  by_cases hb : bad s
  · exact ⟨_, h.raises hb, by rw [h.raises (hbad.2 hb), raiseError_withBus]⟩
  · exact ⟨_, h.commits hb, by rw [h.commits (hbad.not.2 hb), hcommit]⟩

/-- The meaning of a command neither reads nor writes the bus (10_state.md R49). -/
theorem exec_withBus (i : Instr) (s : State) :
    ∃ u, exec i s = .next u ∧ exec i (s.withBus l r d) = .next (u.withBus l r d) := by
  cases i with
  | setSecret => exact exec_setter_withBus l r d isSetter_setSecret .rfl rfl
  | setAlgorithm => exact exec_setter_withBus l r d isSetter_setAlgorithm .rfl rfl
  | setPasswordLength => exact exec_setter_withBus l r d isSetter_setPasswordLength .rfl rfl
  | setWindowSize => exact exec_setter_withBus l r d isSetter_setWindowSize .rfl rfl
  | setInterval => exact exec_setter_withBus l r d isSetter_setInterval .rfl rfl
  | hotpGenerate => exact ⟨_, rfl, congrArg Host.Outcome.next (generateAt_withBus l r d s.arg64 s)⟩
  | totpGenerate =>
    exact ⟨_, rfl, congrArg Host.Outcome.next (generateAt_withBus l r d (counterOf s.arg64 s.interval) s)⟩
  | totpGenerateNow =>
    exact ⟨_, rfl, congrArg Host.Outcome.next (generateAt_withBus l r d (counterOf s.nowLatch s.interval) s)⟩
  | hotpVerify => exact ⟨_, rfl, congrArg Host.Outcome.next (verifyAt_withBus l r d s.arg64 s)⟩
  | totpVerify =>
    exact ⟨_, rfl, congrArg Host.Outcome.next (verifyAt_withBus l r d (counterOf s.arg64 s.interval) s)⟩
  | totpVerifyNow =>
    exact ⟨_, rfl, congrArg Host.Outcome.next (verifyAt_withBus l r d (counterOf s.nowLatch s.interval) s)⟩

/-- A completion neither reads nor writes the bus. -/
theorem completion_withBus {s u : State} (h : completion s = .next u) :
    completion (s.withBus l r d) = .next (u.withBus l r d) := by
  cases hd : decode s.pend with
  | ok i =>
    obtain ⟨u', hu, hbus⟩ := exec_withBus l r d i s
    rw [completion_of_decode_ok hd, hu] at h
    rw [completion_of_decode_ok (by simpa using hd), hbus, Host.Outcome.next.inj h]
  | error e =>
    have hill := illegalWord_of_decode_error hd
    rw [completion_of_illegalWord hill] at h
    rw [completion_of_illegalWord (by simpa using hill), ← Host.Outcome.next.inj h, raiseError_withBus]

/-- A completion keeps the bus as it was. -/
theorem eq_withBus_of_completion {s u : State} (h : completion s = .next u) :
    u = u.withBus s.inputs s.reply s.status.dropped :=
  Host.Outcome.next.inj (h.symm.trans (completion_withBus s.inputs s.reply s.status.dropped h))

end

/-- A host access that the bus answers, as the access of a word at an aligned offset (20_memory.md R62). -/
theorem eq_access_of_goodAccess {p : Params} {m : Input} (h : GoodAccess p m) :
    ∃ o k now, m = .access (wordAccess p o k) now ∧ o % 4 = 0 ∧ o < 0x1000 := by
  cases m with
  | engine => exact h.elim
  | reset => exact h.elim
  | access a now =>
    obtain ⟨hlo, hhi, hwidth, hal⟩ := h
    exact ⟨a.addr - p.baseAddr, a.kind, now, by rw [← eq_wordAccess hlo hwidth], hal, by omega⟩

section
variable {s : State} (hw : s.params.wellFormed = true) (hp : s.phase = .busy)
include hw hp

/-- While BUSY a host access changes the bus alone (20_memory.md R66). -/
theorem step_goodAccess {m : Input} {rest : List Input} (hi : s.inputs = m :: rest) (hm : GoodAccess s.params m) :
    ∃ r d, step s = .next (s.withBus rest r d) := by
  obtain ⟨o, k, now, rfl, ho, ho'⟩ := eq_access_of_goodAccess hm
  cases k with
  | read => exact ⟨.data (s.memRead o), s.status.dropped, step_read hw hi ho ho'⟩
  | write v =>
    rw [step_write hw hi ho ho']
    rcases memWrite_busy (s := s.withInputs rest) hp o v now with he | he <;> rw [he]
    · exact ⟨.ack, s.status.dropped, rfl⟩
    · exact ⟨.ack, true, rfl⟩

/-- The engine completes when its move is the next, or when no move of another agent is to come. -/
theorem step_withBus_engine (l : List Input) (r : Reply) (d : Bool) :
    step (s.withBus (.engine :: l) r d) = completion (s.withBus l r d) := by
  rw [step_engine (s := s.withBus (.engine :: l) r d) hw rfl, engineMove_busy (by simpa using hp)]
  rfl

theorem step_withBus_nil (r : Reply) (d : Bool) : step (s.withBus [] r d) = completion (s.withBus [] r d) := by
  rw [step_nil (s := s.withBus [] r d) hw rfl, engineMove_busy (by simpa using hp)]

/-- While BUSY any list of host accesses changes the bus alone. -/
theorem run_goodAccesses {as : List Input} (has : ∀ m ∈ as, GoodAccess s.params m) :
    ∃ r d, ∀ n, Host.Core.run Sys2Proof.core (as.length + n) (s.withInputs as) =
      Host.Core.run Sys2Proof.core n (s.withBus [] r d) := by
  induction as generalizing s with
  | nil => exact ⟨s.reply, s.status.dropped, fun n => by rw [withInputs_eq_withBus, List.length_nil, Nat.zero_add]⟩
  | cons m as ih =>
    obtain ⟨r, d, hstep⟩ := step_goodAccess (s := s.withInputs (m :: as)) hw hp rfl (has m (by simp))
    obtain ⟨r', d', hrun⟩ := ih (s := s.withBus as r d) hw hp fun x hx => has x (by simp [hx])
    exact ⟨r', d', fun n => by rw [List.length_cons, Nat.add_right_comm, run_next _ hstep]; exact hrun n⟩

end

end Sys2Proof.Machine

namespace Sys2Proof

open Sys2Proof.Machine

/-- Settles O38: the accesses change the bus alone, and the next step is the completion. -/
theorem acceptedCommandCompletesAfterAnyHostAccesses : Obligations.AcceptedCommandCompletesAfterAnyHostAccesses := by
  intro s as hw hp has
  obtain ⟨r, d, hrun⟩ := run_goodAccesses hw hp has
  obtain ⟨t, ht⟩ := completion_next (s.withBus [] r d)
  have hstep := (step_withBus_nil hw hp r d).trans ht
  exact ⟨s.withBus [] r d, t, hrun 0, rfl, (hrun 1).trans (run_next 0 hstep), completion_done ht⟩

/-- Settles O39: the completion after the accesses is the completion at once, on another bus. -/
theorem snapshotAtAcceptanceAgreesWithCompletion : Obligations.SnapshotAtAcceptanceAgreesWithCompletion := by
  intro s as hw hp has
  obtain ⟨r, d, hrun⟩ := run_goodAccesses hw hp has
  obtain ⟨u, hu⟩ := completion_next (s.withInputs [])
  have hstep : step (s.withBus [] r d) = .next (u.withBus [] r d) :=
    (step_withBus_nil hw hp r d).trans (completion_withBus [] r d hu :)
  refine ⟨u.withBus [] r d, u, (hrun 1).trans (run_next 0 hstep), hu, ?_⟩
  rw [eq_withBus_of_completion hu]
  rfl

/-- Settles O40: before the completion the write sets DROPPED, after it the write stores its word, and the completion
itself is the same. -/
theorem argWriteAndCompletionMayComeInEitherOrder : Obligations.ArgWriteAndCompletionMayComeInEitherOrder := by
  intro s v now hw hp w
  obtain ⟨u, hu⟩ := completion_next s
  obtain ⟨⟨hargLo, -, -⟩, -, -⟩ := completionLeaves_host hw (completionLeaves_of_completion hu)
  obtain ⟨hidle, -⟩ := completion_done hu
  have hparams := completion_params hu
  have hdropped : step (s.withInputs [w, .engine]) = .next (s.withBus [.engine] .ack true) :=
    busyWriteIsDropped (s.withInputs [w, .engine]) 0x008 v now [.engine] hw hp rfl (by decide) (by decide)
  have hlast : step (s.withBus [.engine] .ack true) = .next (u.withBus [] .ack true) :=
    (step_withBus_engine hw hp [] .ack true).trans (completion_withBus [] .ack true hu)
  have hfirst : step (s.withInputs [.engine, w]) = .next (u.withBus [w] s.reply s.status.dropped) :=
    (step_withBus_engine hw hp [w] s.reply s.status.dropped).trans (completion_withBus _ _ _ hu)
  have hstored : step (u.withBus [w] s.reply s.status.dropped) =
      .next { u.withBus [] .ack s.status.dropped with argLo := v } :=
    (idleRegisterWriteStoresTheWord (u.withBus [w] s.reply s.status.dropped) 0x008 v now [] (hparams ▸ hw) hidle
      (by rw [withBus_params, hparams]; rfl)).1 rfl
  refine ⟨_, _, (run_next 1 hdropped).trans (run_next 0 hlast), (run_next 1 hfirst).trans (run_next 0 hstored),
    hargLo, rfl, rfl, rfl, ?_⟩
  rw [← hargLo]
  rfl

end Sys2Proof
end

section
/-! SUPPORT. The truncation and the two other readings of the window (spec/40_hotp_core.md R115,
spec/42_window_verifier.md R189, spec/43_totp_core.md R217, R218): clamped factors, and seconds instead of steps. -/

namespace Sys2Proof.Machine

/-- Every digest is longer than any truncation offset and the three bytes after it (R111). -/
theorem digestLen_ge (alg : Alg) : 20 ≤ alg.digestLen := by cases alg <;> decide

/-- A number in the range of a 64-bit counter is the counter's. -/
theorem toNat_ofInt_of_range {z : Int} (h : 0 ≤ z) (h' : z < 2 ^ 64) : ((BitVec.ofInt 64 z).toNat : Int) = z := by
  rw [BitVec.toNat_ofInt, Int.emod_eq_of_lt h (by simpa using h'), Int.toNat_of_nonneg h]

/-- The window in numbers: a factor at most `w` from the centre. -/
theorem mem_windowFactors_iff_le {c f : DWord} {w : Nat} :
    f ∈ windowFactors c w ↔ f.toNat ≤ c.toNat + w ∧ c.toNat ≤ f.toNat + w := by
  rw [mem_windowFactors]
  constructor
  · rintro ⟨o, hlo, hhi, hf⟩
    omega
  · rintro ⟨hhi, hlo⟩
    exact ⟨(f.toNat : Int) - c.toNat, by omega, by omega, by omega⟩

/-- A factor clamped into the counter range is in the window, because the centre is in the range (R189). -/
theorem clamp_mem_windowFactors {c : DWord} {w : Nat} {o : Int} (hlo : -(w : Int) ≤ o) (hhi : o ≤ w) :
    BitVec.ofInt 64 (max 0 (min ((c.toNat : Int) + o) (2 ^ 64 - 1))) ∈ windowFactors c w := by
  have hc := c.isLt
  have hf := toNat_ofInt_of_range (z := max 0 (min ((c.toNat : Int) + o) (2 ^ 64 - 1))) (by omega) (by omega)
  rw [mem_windowFactors_iff_le]
  omega

/-- A factor of the window is its own clamped factor (R189). -/
theorem clamp_eq_self {c f : DWord} {o : Int} (h : (f.toNat : Int) = (c.toNat : Int) + o) :
    BitVec.ofInt 64 (max 0 (min ((c.toNat : Int) + o) (2 ^ 64 - 1))) = f := by
  have hf := f.isLt
  have hclamp : max 0 (min ((c.toNat : Int) + o) (2 ^ 64 - 1)) = f.toNat := by omega
  rw [hclamp, BitVec.ofInt_natCast, BitVec.ofNat_toNat, BitVec.setWidth_eq]

/-- The steps of the seconds at most `w * i` from `t` are at most `w` from the step of `t`, and every such step has a
second there (R217). -/
theorem exists_second_iff {t i w f : Int} (hi : 0 < i) :
    (∃ t', t - w * i ≤ t' ∧ t' ≤ t + w * i ∧ f = t' / i) ↔ t / i - w ≤ f ∧ f ≤ t / i + w := by
  constructor
  · rintro ⟨t', hlo, hhi, rfl⟩
    refine ⟨?_, ?_⟩
    · calc t / i - w = (t - w * i) / i := by rw [sub_eq_add_neg t, ← neg_mul, Int.add_mul_ediv_right _ _ hi.ne']; rfl
        _ ≤ t' / i := Int.ediv_le_ediv hi hlo
    · calc t' / i ≤ (t + w * i) / i := Int.ediv_le_ediv hi hhi
        _ = t / i + w := Int.add_mul_ediv_right _ _ hi.ne'
  · rintro ⟨hlo, hhi⟩
    have hlo' : -w * i ≤ (f - t / i) * i := mul_le_mul_of_nonneg_right (by omega) hi.le
    have hhi' : (f - t / i) * i ≤ w * i := mul_le_mul_of_nonneg_right (by omega) hi.le
    rw [neg_mul] at hlo'
    refine ⟨t + (f - t / i) * i, by omega, by omega, ?_⟩
    rw [Int.add_mul_ediv_right _ _ hi.ne']
    omega

end Sys2Proof.Machine

namespace Sys2Proof

open Sys2Proof.Machine

/-- Settles O47: the offset is at most 15, and a digest has at least 20 bytes. -/
theorem truncationStaysInsideTheDigest : Obligations.TruncationStaysInsideTheDigest := by
  intro alg key msg
  have hlen := digestLen_ge alg
  rw [truncOffset_eq, length_hmac]
  omega

/-- Settles O50: a factor in the range is its own clamped factor, and a clamped factor is in the window. -/
theorem clampingAcceptsTheSameCandidates : Obligations.ClampingAcceptsTheSameCandidates := by
  intro alg key n cand c w
  rw [windowVerify_eq_true_iff]
  constructor
  · rintro ⟨f, hf, heq⟩
    obtain ⟨o, hlo, hhi, ho⟩ := mem_windowFactors.1 hf
    exact ⟨o, hlo, hhi, by rwa [clamp_eq_self ho]⟩
  · rintro ⟨o, hlo, hhi, heq⟩
    exact ⟨_, clamp_mem_windowFactors hlo hhi, heq⟩

/-- Settles O51: the factors of the window are the steps of the seconds scanned. -/
theorem scanningBySecondsAcceptsTheSameCandidates : Obligations.ScanningBySecondsAcceptsTheSameCandidates := by
  intro alg key n cand t i w hi
  have hpos : (0 : Int) < i.toNat := by
    have hne : i.toNat ≠ 0 := fun h => hi (BitVec.eq_of_toNat_eq h)
    omega
  have hwindow (f : DWord) : f ∈ windowFactors (counterOf t i) w ↔
      ∃ t' : Int, (t.toNat : Int) - w * i.toNat ≤ t' ∧ t' ≤ (t.toNat : Int) + w * i.toNat ∧
        (f.toNat : Int) = t' / (i.toNat : Int) := by
    rw [exists_second_iff hpos, mem_windowFactors_iff_le, counterOf_toNat hi, ← Int.natCast_ediv]
    omega
  rw [windowVerify_eq_true_iff]
  constructor
  · rintro ⟨f, hf, heq⟩
    obtain ⟨t', hlo, hhi, hft⟩ := (hwindow f).1 hf
    exact ⟨t', f, hlo, hhi, hft, heq⟩
  · rintro ⟨t', f, hlo, hhi, hft, heq⟩
    exact ⟨f, (hwindow f).2 ⟨t', hlo, hhi, hft⟩, heq⟩

/-- Settles O52: the counter of t' is a factor of the window around that of t. -/
theorem passwordIsAcceptedWithinTheTolerance : Obligations.PasswordIsAcceptedWithinTheTolerance := by
  intro alg key n cand t t' i w hi hlen hbytes hhi hlo
  have hmem : counterOf t' i ∈ windowFactors (counterOf t i) w := by
    rw [mem_windowFactors_iff_le, counterOf_toNat hi, counterOf_toNat hi]
    exact ⟨hhi, hlo⟩
  exact windowVerify_eq_true_iff.2 ⟨_, hmem, candidateEq_iff.2 ⟨hlen, hbytes⟩⟩

end Sys2Proof
end
